-- ==== Sys2Proof/Word.lean ====
section
/-! DEFINITION. The widths of fp_single_adder (00_scope.md rule R7). -/

namespace Sys2Proof

/-- A single-precision bit pattern, an operand or a result (R7, R42). -/
abbrev Word := BitVec 32

/-- A request word `REQ = {a, b}` (R48). -/
abbrev ReqWord := BitVec 64

/-- The working exponent, 10 bits two's complement (R7, decision D10). -/
abbrev Exp10 := BitVec 10

/-- A significand, 24 bits unsigned (R7). -/
abbrev Sig24 := BitVec 24

/-- The signed sum, 27 bits two's complement (R7, R91). -/
abbrev Sum27 := BitVec 27

/-- The magnitude of the sum, 25 bits unsigned (R7, R92). -/
abbrev Mag25 := BitVec 25

end Sys2Proof
end

