-- ==== Sys2Proof/Syntax.lean ====
section
/-! DEFINITION. The operation of the block, and the harness notation in which the spec writes what a host does. -/

namespace Sys2Proof

/-- The operation map of R50: exactly one entry. -/
inductive Instr where
  /-- `ADD`, the request `(a, b)` (R48, R56). -/
  | add (a b : Word)
deriving DecidableEq, Repr

/-- An operand of a harness statement: a hex32 or one of the host's variables r0 to r15 (R53). -/
inductive HarnessOperand where
  | hex (w : Word)
  | var (r : Fin 16)
deriving DecidableEq, Repr

/-- A harness statement other than REPEAT (R53). -/
inductive HarnessStmt where
  /-- `RESET`: drive rst = 1 for one rising edge. -/
  | reset
  /-- `ADD x, y`: offer the request until it is accepted. -/
  | add (x y : HarnessOperand)
  /-- `WAIT`: wait until out_valid = 1. -/
  | wait
  /-- `MOV r, RESULT`: the host copies out_result into a variable. -/
  | mov (r : Fin 16)
  /-- `CHECK h`: the host asserts out_valid = 1 and out_result = h. -/
  | check (h : Word)
  /-- `IDLE n`: n rising edges with in_valid = 0 and rst = 0. -/
  | idle (n : Nat)
  /-- A comment line. -/
  | comment (text : String)
deriving DecidableEq, Repr

/-- A harness program: statements in order, and REPEAT, whose body is a program (R53). -/
inductive HarnessProgram where
  | nil
  | cons (s : HarnessStmt) (rest : HarnessProgram)
  | rep (n : Nat) (body rest : HarnessProgram)
deriving DecidableEq, Repr

end Sys2Proof
end

