-- ==== Sys2Proof/WellFormed.lean ====
section
/-! DEFINITION. Which terms are well formed.

An `Instr` has no check: "Every one of the 2^64 request words is a legal `ADD`" (R51), and the operands' widths are in
their types. A harness program has one check, `count ::= decimal integer >= 1` (R53), for IDLE and for REPEAT. -/

namespace Sys2Proof

/-- Every request is legal (R51). -/
def Instr.wf : Instr → Bool
  | .add _ _ => true

/-- `count >= 1` (R53). -/
def HarnessStmt.wf : HarnessStmt → Bool
  | .idle n => decide (1 ≤ n)
  | .reset => true
  | .add _ _ => true
  | .wait => true
  | .mov _ => true
  | .check _ => true
  | .comment _ => true

/-- Every count of the program is at least 1 (R53). -/
def HarnessProgram.wf : HarnessProgram → Bool
  | .nil => true
  | .cons s rest => s.wf && rest.wf
  | .rep n body rest => decide (1 ≤ n) && body.wf && rest.wf

end Sys2Proof
end

