-- ==== Sys2Proof/Decode.lean ====
section
/-! DEFINITION. The request word: the decoder, then the encoder (30_encoding.md rules R48, R50, R51, R52, R55). -/

namespace Sys2Proof

/-- Why a string of bits is no request word. -/
inductive DecodeReject where
  /-- Fewer or more than 64 bits: "A request is always the 64-bit pair of rule R48" (R52). -/
  | wrongWidth
  /-- A number that 64 bits do not hold. -/
  | tooLarge
deriving DecidableEq, Repr

/-- `a = REQ[63:32]` (R50). -/
def reqA (w : ReqWord) : Word := w.extractLsb' 32 32

/-- `b = REQ[31:0]` (R50). -/
def reqB (w : ReqWord) : Word := w.extractLsb' 0 32

/-- `REQ = {a, b}`, a in bits 63..32 and b in bits 31..0 (R48). -/
def requestWord (a b : Word) : ReqWord := a ++ b

/-- Every 64-bit request word is `ADD`, mask 0 and match 0 (R50, R51). -/
def decode (w : ReqWord) : Instr := .add (reqA w) (reqB w)

/-- The request that `nbits` bits of value `w` stand for: 64 bits, no shorter and no longer form (R52; log entry 9). -/
def decodeBits (nbits w : Nat) : Except DecodeReject Instr :=
  if nbits = 64 then
    if w < 2 ^ 64 then .ok (decode (BitVec.ofNat 64 w)) else .error .tooLarge
  else .error .wrongWidth

/-- The decoder on a row of the opcode table, the bits numbered as the table numbers them. -/
def decodeTableWord (nbits w : Nat) : Option Instr :=
  match decodeBits nbits w with
  | .ok i => some i
  | .error _ => none

/-- The request word of an operation (R48, R55). -/
def encode : Instr → ReqWord
  | .add a b => requestWord a b

end Sys2Proof
end

