-- ==== Sys2Proof/Config.lean ====
section
/-! DEFINITION. What an implementation of the block fixes (LAT_MAX) and the values the spec leaves free.
Every constant here is opaque and has no body: no proof can see a value of it. -/

namespace Sys2Proof.Config

/-- `LAT_MAX - 1`. `LAT_MAX` is OPEN, "an integer of at least 1" (R7, decision D7; log entry 5). -/
opaque latMaxPred : Nat

/-- `LAT_MAX`: the largest number of edges from acceptance to completion (R7, R23, R127). It is one constant, so every instance
of a bank has the same one: DESIGN CHOICE, since R7 gives it as a parameter of a block and R115 is silent on it (log entries
5 and 15). -/
def latMax : Nat := latMaxPred + 1

/-- Free value: the timer's choice at an edge with BUSY = 1, true for "complete now" (R23; log entry 6).
The first argument is the draw's number; the others are OPA and OPB, on which the latency may depend. -/
opaque doneChoice : Nat → Word → Word → Bool

/-- Free value: BUSY before the first reset edge (R123, S4; log entry 4). -/
opaque powerUpBusy : Nat → Bool

/-- Free value: OUT_VALID before the first reset edge (R123, S4; log entry 4). -/
opaque powerUpOutValid : Nat → Bool

/-- Free value: RES before the first reset edge (R123, S4; log entry 4). -/
opaque powerUpRes : Nat → Word

/-- Free value: OPA before the first reset edge (R123, S4; log entry 4). -/
opaque powerUpOpa : Nat → Word

/-- Free value: OPB before the first reset edge (R123, S4; log entry 4). -/
opaque powerUpOpb : Nat → Word

/-- Free value: the in-flight timer before the first reset edge (R123, S4; log entry 4). -/
opaque powerUpTimer : Nat → Nat

/-- Free value: the output `e` of exponent_align_unit when its tag is not ALIGNED (R79, D28; log entry 10). -/
opaque unreadE : Word → Word → Exp10

/-- Free value: the output `ma` of exponent_align_unit when its tag is not ALIGNED (R79, D28; log entry 10). -/
opaque unreadMa : Word → Word → Sig24

/-- Free value: the output `mb` of exponent_align_unit when its tag is not ALIGNED (R79, D28; log entry 10). -/
opaque unreadMb : Word → Word → Sig24

/-- Free value: the output `nres` of normalizer_unit when `ovf` or `unf` is 1 (R96, R97, D28; log entry 10). -/
opaque unreadNres : Bool → Mag25 → Exp10 → Word

end Sys2Proof.Config
end

