-- ==== Sys2Proof/Machine/Operands.lean ====
section
/-! DEFINITION. The fields of a bit pattern, the zero test, unpacking, and the labels of the operand classes
(30_encoding.md rules R42 to R46; 00_scope.md rules R14, R15). -/

namespace Sys2Proof.Machine

/-- `S_BIT`, the sign mask (R14). -/
def signMask : Word := 0x80000000#32

/-- `s(p) = p[31]` (R43). -/
def signOf (p : Word) : Bool := p.getLsbD 31

/-- `E(p) = p[30:23]` (R43). -/
def expOf (p : Word) : BitVec 8 := p.extractLsb' 23 8

/-- `F(p) = p[22:0]` (R43). -/
def fracOf (p : Word) : BitVec 23 := p.extractLsb' 0 23

/-- `p[30:0]`: the pattern without its sign bit (R45). -/
def magnitudeBits (p : Word) : BitVec 31 := p.extractLsb' 0 31

/-- The zero test: `p[30:0] = 0` (R45). -/
def isZero (p : Word) : Bool := magnitudeBits p == 0#31

/-- `exp(p) = zext_10(p[30:23])` (R46). -/
def workExp (p : Word) : Exp10 := (expOf p).setWidth 10

/-- `sig(p) = {1'b1, p[22:0]}` (R46): the implicit 1 is set for every operand (R80). -/
def significand (p : Word) : Sig24 := 1#1 ++ fracOf p

/-- A pattern from its three fields, `{s, E, F}` (R42). -/
def assemble (s : Bool) (e : BitVec 8) (f : BitVec 23) : Word := BitVec.ofBool s ++ e ++ f

/-- The IEEE-754 classes of R44. Labels: no rule of the datapath tests for them (R15, R77). -/
inductive IeeeClass where
  | zero
  | subnormal
  | normal
  | infinity
  | nan
deriving DecidableEq, Repr

/-- The class of a pattern, by the table of R44. -/
def ieeeClass (p : Word) : IeeeClass :=
  if expOf p = 0#8 then
    if fracOf p = 0#23 then .zero else .subnormal
  else if expOf p = 255#8 then
    if fracOf p = 0#23 then .infinity else .nan
  else .normal

/-- The value reading of a pattern with biased exponent 1..254 (R15), times the fixed positive factor 2^150, so that it is
an integer: `(-1)^s * (1 + F/2^23) * 2^(E-127) * 2^150 = (-1)^s * (2^23 + F) * 2^E` (log entry 16). -/
def scaledValue (p : Word) : Int :=
  (if signOf p then -1 else 1) * ((significand p).toNat : Int) * 2 ^ (expOf p).toNat

end Sys2Proof.Machine
end

