-- ==== Sys2Proof/Machine/Flags.lean ====
section
/-! DEFINITION. The block has no status flags (R27): no port and no register shows how a result came about. What stands in
for them are the internal tags of the alignment (R82) and of the outcome (R75), and the two constant results (R73). -/

namespace Sys2Proof.Machine

/-- `tag_al` of exponent_align_unit (R79, R82). -/
inductive AlignTag where
  | aligned
  | neglA
  | neglB
deriving DecidableEq, Repr

/-- `ALIGNED` = 0, `NEGL_A` = 1, `NEGL_B` = 2; the value 3 is never produced (R57, R79). -/
def AlignTag.code : AlignTag → BitVec 2
  | .aligned => 0#2
  | .neglA => 1#2
  | .neglB => 2#2

/-- The outcome tag (R75): which exit of the algorithm produced the result. -/
inductive OutcomeTag where
  | zeroA
  | zeroB
  | neglA
  | neglB
  | zeroSum
  | overflow
  | underflow
  | normal
deriving DecidableEq, Repr

/-- The codes of R75. -/
def OutcomeTag.code : OutcomeTag → BitVec 3
  | .zeroA => 0#3
  | .zeroB => 1#3
  | .neglA => 2#3
  | .neglB => 3#3
  | .zeroSum => 4#3
  | .overflow => 5#3
  | .underflow => 6#3
  | .normal => 7#3

/-- `ZERO = 0x00000000`, always unsigned (R73). -/
def zeroPattern : Word := 0x00000000#32

/-- `INF(rs) = {rs, 8'hFF, 0^23}` (R73). -/
def infPattern (rs : Bool) : Word := assemble rs 0xFF#8 0#23

end Sys2Proof.Machine
end

