-- ==== Sys2Proof/Machine/ExponentAlign.lean ====
section
/-! DEFINITION. exponent_align_unit: unpacking and exponent alignment (42_exponent_align_unit.md). -/

namespace Sys2Proof.Machine

/-- The values the alignment loop changes (R81). -/
structure AlignRegs where
  ea : Exp10
  eb : Exp10
  ma : Sig24
  mb : Sig24
deriving DecidableEq, Repr

/-- How the alignment loop ended, and after how many iterations (R81, R82, R85). -/
structure AlignRun where
  tag : AlignTag
  regs : AlignRegs
  iters : Nat
deriving DecidableEq, Repr

/-- The outputs of the unit (R79). -/
structure EauOut where
  tagAl : AlignTag
  e : Exp10
  ma : Sig24
  mb : Sig24
  sa : Bool
  sb : Bool
deriving DecidableEq, Repr

/-- Unpacking both operands (R80). -/
def unpack (a b : Word) : AlignRegs where
  ea := workExp a
  eb := workExp b
  ma := significand a
  mb := significand b

/-- One iteration's shift of operand a: the exponent up by one, the significand one place down (R81, R83). -/
def AlignRegs.shiftA (r : AlignRegs) : AlignRegs := { r with ea := r.ea + 1#10, ma := r.ma >>> 1 }

/-- One iteration's shift of operand b (R81, R83). -/
def AlignRegs.shiftB (r : AlignRegs) : AlignRegs := { r with eb := r.eb + 1#10, mb := r.mb >>> 1 }

/-- The loop of R81 with the early exit of R82. `fuel` bounds the iterations, `k` counts them (log entry 12). -/
def alignLoop : (fuel k : Nat) → AlignRegs → AlignRun
  | 0, k, r => ⟨.aligned, r, k⟩
  | fuel + 1, k, r =>
    if r.ea = r.eb then ⟨.aligned, r, k⟩
    else if r.ea.ult r.eb then
      if r.shiftA.ma = 0#24 then ⟨.neglA, r.shiftA, k + 1⟩ else alignLoop fuel (k + 1) r.shiftA
    else
      if r.shiftB.mb = 0#24 then ⟨.neglB, r.shiftB, k + 1⟩ else alignLoop fuel (k + 1) r.shiftB

/-- The alignment of two operands; "at most 255 iterations since exponents are 8-bit" (R85). -/
def alignRun (a b : Word) : AlignRun := alignLoop 255 0 (unpack a b)

/-- `eau` (R81). The outputs `e`, `ma` and `mb` are free values when the tag is not ALIGNED (R79, D28; log entry 10). -/
def eau (a b : Word) : EauOut :=
  match (alignRun a b).tag with
  | .aligned =>
    ⟨.aligned, (alignRun a b).regs.ea, (alignRun a b).regs.ma, (alignRun a b).regs.mb, signOf a, signOf b⟩
  | .neglA => ⟨.neglA, Config.unreadE a b, Config.unreadMa a b, Config.unreadMb a b, signOf a, signOf b⟩
  | .neglB => ⟨.neglB, Config.unreadE a b, Config.unreadMa a b, Config.unreadMb a b, signOf a, signOf b⟩

/-- How many iterations the alignment of two operands runs (R85, R129). -/
def alignIterations (a b : Word) : Nat := (alignRun a b).iters

end Sys2Proof.Machine
end

