-- ==== Sys2Proof/Machine/MantissaAdd.lean ====
section
/-! DEFINITION. mantissa_add_tree: signed addition, result sign and magnitude, zero sum (43_mantissa_add_tree.md). -/

namespace Sys2Proof.Machine

/-- The outputs of the unit (R89). -/
structure MatOut where
  rs : Bool
  m : Mag25
  sumZero : Bool
deriving DecidableEq, Repr

/-- `sign ? -zext_27(m) : zext_27(m)` (R90). -/
def signedSig (sign : Bool) (m : Sig24) : Sum27 :=
  if sign then -(m.setWidth 27) else m.setWidth 27

/-- `s = va + vb`, 27 bits two's complement (R90, R91). -/
def signedSum (sa sb : Bool) (ma mb : Sig24) : Sum27 := signedSig sa ma + signedSig sb mb

/-- `|s|` as 25 bits unsigned (R92). -/
def sumMagnitude (s : Sum27) : Mag25 := (if s.slt 0#27 then -s else s).setWidth 25

/-- `mat` (R90, R92, R93). -/
def mat (sa sb : Bool) (ma mb : Sig24) : MatOut where
  rs := (signedSum sa sb ma mb).slt 0#27
  m := sumMagnitude (signedSum sa sb ma mb)
  sumZero := sumMagnitude (signedSum sa sb ma mb) == 0#25

end Sys2Proof.Machine
end

