-- ==== Sys2Proof/Machine/Normalizer.lean ====
section
/-! DEFINITION. normalizer_unit: carry renormalization, left normalization, field assembly (44_normalizer_unit.md). -/

namespace Sys2Proof.Machine

/-- The outputs of the unit (R96). -/
structure NuOut where
  ovf : Bool
  unf : Bool
  nres : Word
deriving DecidableEq, Repr

/-- How the left normalization ended: the last magnitude and exponent, whether by underflow, after how many shifts. -/
structure NormRun where
  m : Mag25
  e : Exp10
  unf : Bool
  iters : Nat
deriving DecidableEq, Repr

/-- The loop of R99 with the underflow test of R100 after every decrement. `fuel` bounds the iterations, `k` counts them
(log entry 12). -/
def normLoop : (fuel k : Nat) → Mag25 → Exp10 → NormRun
  | 0, k, m, e => ⟨m, e, true, k⟩
  | fuel + 1, k, m, e =>
    if m.getLsbD 23 then ⟨m, e, false, k⟩
    else if (e - 1#10).sle 0#10 then ⟨m <<< 1, e - 1#10, true, k + 1⟩
    else normLoop fuel (k + 1) (m <<< 1) (e - 1#10)

/-- Step 8 from a magnitude and an exponent; the fuel ends the loop for every value of the two registers. -/
def normRun (m : Mag25) (e : Exp10) : NormRun := normLoop 512 0 m e

/-- Step 9, field assembly: `{rs, e[7:0], m[22:0]}` (R101). -/
def assembleResult (rs : Bool) (e : Exp10) (m : Mag25) : Word :=
  assemble rs (e.extractLsb' 0 8) (m.extractLsb' 0 23)

/-- Steps 8 and 9 of `nu`. `nres` is a free value when `unf` is 1 (R97, D28; log entry 10). -/
def nuNormalize (rs : Bool) (m : Mag25) (e : Exp10) : NuOut :=
  if (normRun m e).unf then ⟨false, true, Config.unreadNres rs m e⟩
  else ⟨false, false, assembleResult rs (normRun m e).e (normRun m e).m⟩

/-- `nu` (R97): the carry path, where an exponent of 255 or more overflows (R98, decision D8), and the rest. `nres` is a free
value when `ovf` is 1. -/
def nu (rs : Bool) (m : Mag25) (e : Exp10) : NuOut :=
  if m.getLsbD 24 then
    if (255#10).sle (e + 1#10) then ⟨true, false, Config.unreadNres rs m e⟩
    else nuNormalize rs (m >>> 1) (e + 1#10)
  else nuNormalize rs m e

/-- How many left shifts `nu` runs on a magnitude and an exponent: none after a carry (R97, R103, R129). -/
def leftShifts (m : Mag25) (e : Exp10) : Nat :=
  if m.getLsbD 24 then
    if (255#10).sle (e + 1#10) then 0 else (normRun (m >>> 1) (e + 1#10)).iters
  else (normRun m e).iters

end Sys2Proof.Machine
end

