-- ==== Sys2Proof/Machine/SpecialCase.lean ====
section
/-! DEFINITION. special_case_handler: zero detection and the selection of the result (41_special_case_handler.md). -/

namespace Sys2Proof.Machine

/-- The outputs of the detect half (R70). -/
structure ZeroFlags where
  za : Bool
  zb : Bool
deriving DecidableEq, Repr

/-- The outputs of the select half (R70). -/
structure Selection where
  result : Word
  tag : OutcomeTag
deriving DecidableEq, Repr

/-- `sch_detect` (R71). -/
def schDetect (a b : Word) : ZeroFlags := ⟨isZero a, isZero b⟩

/-- `sch_select` (R74): the first test that holds decides, and no signal named after it is read. -/
def schSelect (a b : Word) (za zb : Bool) (tagAl : AlignTag) (sumZero ovf unf rs : Bool) (nres : Word) : Selection :=
  if za then ⟨b, .zeroA⟩
  else if zb then ⟨a, .zeroB⟩
  else if tagAl = .neglA then ⟨b, .neglA⟩
  else if tagAl = .neglB then ⟨a, .neglB⟩
  else if sumZero then ⟨zeroPattern, .zeroSum⟩
  else if ovf then ⟨infPattern rs, .overflow⟩
  else if unf then ⟨zeroPattern, .underflow⟩
  else ⟨nres, .normal⟩

end Sys2Proof.Machine
end

