-- ==== Sys2Proof/Machine/FpAdd.lean ====
section
/-! DEFINITION. `fp_add`: the wiring of the four sub-units (40_fp_single_adder.md rules R56, R57). -/

namespace Sys2Proof.Machine

/-- mantissa_add_tree on the outputs of exponent_align_unit (R57). -/
def matOf (a b : Word) : MatOut := mat (eau a b).sa (eau a b).sb (eau a b).ma (eau a b).mb

/-- normalizer_unit on the outputs of the two units before it (R57). -/
def nuOf (a b : Word) : NuOut := nu (matOf a b).rs (matOf a b).m (eau a b).e

/-- The result of the select half and its tag (R56). -/
def fpSelect (a b : Word) : Selection :=
  schSelect a b (schDetect a b).za (schDetect a b).zb (eau a b).tagAl (matOf a b).sumZero (nuOf a b).ovf (nuOf a b).unf
    (matOf a b).rs (nuOf a b).nres

/-- `fp_add(a, b)` (R56). -/
def fpAdd (a b : Word) : Word := (fpSelect a b).result

/-- The outcome tag of the request `(a, b)`, which reaches no port and no register (R75, R108). -/
def outcomeTag (a b : Word) : OutcomeTag := (fpSelect a b).tag

end Sys2Proof.Machine
end

