-- ==== Sys2Proof/Machine/State.lean ====
section
/-! DEFINITION. The state of one fp_single_adder (10_state.md), what the outside does to it, and why a step stops. -/

namespace Sys2Proof.Machine

/-- The level of a one-bit input port at a rising edge. "Undriven" is the level R126 forbids where it is sampled. -/
inductive Pin where
  | low
  | high
  | undriven
deriving DecidableEq, Repr

/-- The input ports just before one rising edge of `clk` (R17). `none` on an operand port says that at least one of its
bits is undriven (R126; log entry 2). -/
structure Ports where
  rst : Pin
  inValid : Pin
  inA : Option Word
  inB : Option Word
deriving DecidableEq, Repr

/-- What the outside does next: a rising edge of `clk` with these levels on the ports (R17, R18), or a loss of power (R117). -/
inductive Event where
  | edge (p : Ports)
  | powerLoss
deriving DecidableEq, Repr

/-- The state of the block: the six pieces of R16, then the model's own fields. -/
structure State where
  /-- `BUSY` (R19). -/
  busy : Bool
  /-- `OUT_VALID` (R20). -/
  outValid : Bool
  /-- `RES` (R21). -/
  res : Word
  /-- `OPA` (R22). -/
  opa : Word
  /-- `OPB` (R22). -/
  opb : Word
  /-- The in-flight timer (R23): how many more edges the request in flight may take, this one included (log entry 7). -/
  timer : Nat
  /-- Model's own: a reset edge has come since power-up (R123, R126; log entry 3). -/
  resetSeen : Bool
  /-- Model's own: what the outside does at the coming steps, the next one first (log entry 1). -/
  events : List Event
  /-- Model's own: the timer's choices at the coming edges with BUSY = 1; past its end they are free (log entry 6). -/
  doneDraws : List Bool
  /-- Model's own: how many free values have been drawn (log entry 6). -/
  draws : Nat
deriving DecidableEq, Repr

/-- Why the block faults: it never does. "The block raises no exception, trap or fault" (R107), and "The datapath has no
fault outcome" (R118). The type has no constructor, so that no step can answer with one (log entry 11). -/
inductive Fault where
deriving DecidableEq, Repr

/-- Why the model does not describe a step. -/
inductive Refusal where
  /-- Raised by `exec` for an operation without a meaning: none. Safe. -/
  | notModelled (mnemonic : String)
  /-- Raised by the clock edge, after the first reset, with `rst` undriven (R126, S6). Safe: the spec says nothing of such
  a run. -/
  | undrivenRst
  /-- Raised by the clock edge, after the first reset, with `in_valid` undriven (R126, S6). Safe, as above. -/
  | undrivenInValid
  /-- Raised by an accepting edge with an undriven bit in `in_a` or `in_b` (R126, S6). Safe, as above. -/
  | undrivenOperand
deriving DecidableEq, Repr

/-- The block right after a reset edge (R31, R119), with nothing yet at its ports. -/
def State.reset : State where
  busy := false
  outValid := false
  res := 0x00000000#32
  opa := 0x00000000#32
  opb := 0x00000000#32
  timer := 0
  resetSeen := true
  events := []
  doneDraws := []
  draws := 0

end Sys2Proof.Machine
end

