-- ==== Sys2Proof/Machine/Ops.lean ====
section
/-! DEFINITION. The named operations on the registers: the outputs, and what each kind of edge writes (R24, R59, R119).

TAKING AN EXCEPTION AND RETURNING FROM ONE: there is no such operation. "Trap entry and trap return do not exist. No state is
saved, no vector or handler address exists" (R111), and "The block raises no exception, trap or fault" (R107).

MEMORY: there is none. "The block has no address space" (R33). -/

namespace Sys2Proof.Machine

/-- `in_ready = ~BUSY` (R24). -/
def State.inReady (s : State) : Bool := !s.busy

/-- `out_valid = OUT_VALID` (R24). -/
def State.outValidPort (s : State) : Bool := s.outValid

/-- `out_result = RES` (R24). -/
def State.outResult (s : State) : Word := s.res

/-- The request word in flight, `{OPA, OPB}` (R48, R56). -/
def State.request (s : State) : ReqWord := requestWord s.opa s.opb

/-- What a reset edge writes (R119, R31). -/
def State.resetEdge (s : State) : State :=
  { s with busy := false, outValid := false, res := 0x00000000#32, opa := 0x00000000#32, opb := 0x00000000#32,
           timer := 0, resetSeen := true }

/-- What an accepting edge writes (R59): the operands, BUSY and OUT_VALID; the timer starts (R23). RES keeps its value. -/
def State.accept (s : State) (a b : Word) : State :=
  { s with opa := a, opb := b, busy := true, outValid := false, timer := Config.latMax }

/-- What a completion edge writes (R59). -/
def State.complete (s : State) (r : Word) : State :=
  { s with res := r, outValid := true, busy := false }

/-- The timer's choice at this edge: complete now, or not yet (R23). Past the end of `doneDraws` it is a free value. -/
def State.draw (s : State) : Bool :=
  match s.doneDraws with
  | d :: _ => d
  | [] => Config.doneChoice s.draws s.opa s.opb

/-- `done` (R59): the timer's choice, "forced to complete when L reaches LAT_MAX" (R23). -/
def State.done (s : State) : Bool := decide (s.timer ≤ 1) || s.draw

/-- The choice of this edge is used up (log entry 6). -/
def State.dropDraw (s : State) : State := { s with doneDraws := s.doneDraws.tail, draws := s.draws + 1 }

/-- An edge with the request still in flight: no register changes (R59), and the hidden timer has one edge less (R23). -/
def State.wait (s : State) : State := { s with timer := s.timer - 1 }

/-- The registers before the first reset edge: a free draw of every one (R123, S4; log entry 4). The draw is named by the
state's own counter alone, so two instances whose counters are equal draw equal registers: DESIGN CHOICE, since R115 is silent
on it (log entries 4 and 15). -/
def State.unspecified (s : State) : State :=
  { s with busy := Config.powerUpBusy s.draws, outValid := Config.powerUpOutValid s.draws, res := Config.powerUpRes s.draws,
           opa := Config.powerUpOpa s.draws, opb := Config.powerUpOpb s.draws, timer := Config.powerUpTimer s.draws,
           resetSeen := false, draws := s.draws + 1 }

/-- The ports of a host that has nothing to say: `rst` = 0, `in_valid` = 0 (log entry 1). -/
def Ports.idle : Ports := ⟨.low, .low, none, none⟩

/-- The ports at a reset edge. -/
def Ports.resetting : Ports := ⟨.high, .low, none, none⟩

/-- The ports of a host that offers the request `(a, b)`. -/
def Ports.offering (a b : Word) : Ports := ⟨.low, .high, some a, some b⟩

/-- What the outside does at this step: the first of `events`, or an idle edge (log entry 1). -/
def State.nextEvent (s : State) : Event := s.events.headD (.edge Ports.idle)

/-- The events after this step. -/
def State.dropEvent (s : State) : State := { s with events := s.events.tail }

/-- A state that differs from `s` in what makes the request `(a, b)` the one the next step completes: the operands are in OPA
and OPB, the request is in flight, the next edge is its last one allowed, and the host drives nothing else at it
(log entry 8). -/
def State.loadRequest (s : State) (a b : Word) : State :=
  { s with opa := a, opb := b, busy := true, outValid := false, timer := 1, events := .edge Ports.idle :: s.events }

end Sys2Proof.Machine
end

