-- ==== Sys2Proof/Machine/Add.lean ====
section
/-! DEFINITION. The meaning of `ADD`, the block's one operation (40_fp_single_adder.md rule R56). -/

namespace Sys2Proof.Machine

/-- `ADD` (R56): "Result: `RES <- fp_add(a, b)` at the completion edge", with OUT_VALID <- 1 and BUSY <- 0 (R59). Flags
written: none. Exceptions raised: none. The operands were captured at the accepting edge (R22; log entry 8). -/
def execAdd (a b : Word) (s : State) : Host.Outcome State Fault Refusal := .next (s.complete (fpAdd a b))

end Sys2Proof.Machine
end

