-- ==== Sys2Proof/Machine/Dispatch.lean ====
section
/-! DEFINITION. From an operation to its meaning, one arm per constructor. -/

namespace Sys2Proof.Machine

def exec (i : Instr) (s : State) : Host.Outcome State Fault Refusal :=
  match i with
  | .add a b => Sys2Proof.Machine.execAdd a b s

end Sys2Proof.Machine
end

