-- ==== Sys2Proof/Machine/Edge.lean ====
section
/-! DEFINITION. The clock-edge rule (40_fp_single_adder.md rule R59), with the inputs the host must drive (R126). -/

namespace Sys2Proof.Machine

/-- An edge with `BUSY` = 1, `rst` = 0 and `in_valid` driven: the completion edge, which runs the request in flight, or one
more edge in flight. An offer is neither accepted nor remembered (R59, R124). -/
def busyEdge (s : State) : Host.Outcome State Fault Refusal :=
  if s.done then exec (decode s.request) s.dropDraw else .next s.dropDraw.wait

/-- An edge with `BUSY` = 0, `rst` = 0 and `in_valid` = 1: the accepting edge, at which all 64 operand bits must be driven
(R59, R126). -/
def acceptingEdge (inA inB : Option Word) (s : State) : Host.Outcome State Fault Refusal :=
  match inA, inB with
  | some a, some b => .next (s.accept a b)
  | none, _ => .refused .undrivenOperand
  | some _, none => .refused .undrivenOperand

/-- An edge at which a control port is undriven: refused after the first reset (R126, S6); before it, the registers are a free
draw (R123; log entry 3). -/
def undrivenEdge (why : Refusal) (s : State) : Host.Outcome State Fault Refusal :=
  if s.resetSeen then .refused why else .next s.unspecified

/-- One rising edge of `clk` (R59): the branches in their priority order. -/
def clockEdge (p : Ports) (s : State) : Host.Outcome State Fault Refusal :=
  match p.rst with
  | .undriven => undrivenEdge .undrivenRst s
  | .high =>
    if p.inValid = .undriven ∧ s.resetSeen = true then .refused .undrivenInValid else .next s.resetEdge
  | .low =>
    match p.inValid with
    | .undriven => undrivenEdge .undrivenInValid s
    | .high => if s.busy then busyEdge s else acceptingEdge p.inA p.inB s
    | .low => if s.busy then busyEdge s else .next s

/-- What the outside does: a rising edge, or a loss of power, after which nothing survives (R117). -/
def handleEvent (ev : Event) (s : State) : Host.Outcome State Fault Refusal :=
  match ev with
  | .edge p => clockEdge p s
  | .powerLoss => .next s.unspecified

end Sys2Proof.Machine
end

