-- ==== Sys2Proof/Machine/Step.lean ====
section
/-! DEFINITION. One step: the next thing the outside does, one rising edge of `clk` as a rule. -/

namespace Sys2Proof.Machine

/-- One step of the machine (R59). The event is taken off the list, and the block answers it. -/
def step (s : State) : Host.Outcome State Fault Refusal := handleEvent s.nextEvent s.dropEvent

/-- `s` with the request word `w` as the request in flight whose completion edge is the next step (log entry 8). -/
def State.withFetchWord (s : State) (nbits w : Nat) : State :=
  s.loadRequest (reqA (BitVec.ofNat 64 (w % 2 ^ nbits))) (reqB (BitVec.ofNat 64 (w % 2 ^ nbits)))

end Sys2Proof.Machine
end

