-- ==== Sys2Proof/Machine/Harness.lean ====
section
/-! DEFINITION. The host of the harness notation: what each statement does at the ports (30_encoding.md rules R53 to R55).
The host is outside the block: its variables are not block state, and it reads only the outputs of R24. -/

namespace Sys2Proof.Machine

/-- The host, its block, and the outcomes of its CHECKs, oldest first. -/
structure Harness where
  vars : Vector Word 16
  checks : List Bool
  block : State
deriving DecidableEq, Repr

/-- A host before its first statement: "Host variables r0 to r15 start at 0x00000000" (95_test_vectors.md section 3). -/
def Harness.start (s : State) : Harness := ⟨Vector.replicate 16 0x00000000#32, [], s⟩

/-- The value of an operand: a pattern, or the value the host holds in a variable (R54). -/
def Harness.value (h : Harness) : HarnessOperand → Word
  | .hex w => w
  | .var r => h.vars[r]

/-- One rising edge with these levels on the ports. -/
def Harness.drive (h : Harness) (p : Ports) : Host.Outcome Harness Fault Refusal :=
  match step { h.block with events := .edge p :: h.block.events } with
  | .next s => .next { h with block := s }
  | .fault r => .fault r
  | .refused r => .refused r

/-- One rising edge, after which the statement `todo` is left. -/
def Harness.driveThen (h : Harness) (p : Ports) (todo : Option HarnessStmt) :
    Host.Outcome (Harness × Option HarnessStmt) Fault Refusal :=
  match h.drive p with
  | .next h' => .next (h', todo)
  | .fault r => .fault r
  | .refused r => .refused r

/-- One action of a statement (R54): a host action, or one rising edge; what is left of the statement stands beside the new
host. -/
def Harness.act (h : Harness) : HarnessStmt → Host.Outcome (Harness × Option HarnessStmt) Fault Refusal
  | .reset => h.driveThen Ports.resetting none
  | .add x y =>
    h.driveThen (Ports.offering (h.value x) (h.value y)) (if h.block.inReady then none else some (.add x y))
  | .wait => if h.block.outValidPort then .next (h, none) else h.driveThen Ports.idle (some .wait)
  | .mov r => .next ({ h with vars := h.vars.set r h.block.outResult }, none)
  | .check w => .next ({ h with checks := h.checks ++ [h.block.outValidPort && h.block.outResult == w] }, none)
  | .idle 0 => .next (h, none)
  | .idle (n + 1) => h.driveThen Ports.idle (if n = 0 then none else some (.idle n))
  | .comment _ => .next (h, none)

/-- A run of at most `fuel` actions; the statements not yet done stand beside the host (log entry 14). -/
def Harness.run : (fuel : Nat) → List HarnessStmt → Harness →
    Host.Outcome (Harness × List HarnessStmt) Fault Refusal
  | 0, ss, h => .next (h, ss)
  | _ + 1, [], h => .next (h, [])
  | fuel + 1, s :: ss, h =>
    match h.act s with
    | .next (h', none) => Harness.run fuel ss h'
    | .next (h', some s') => Harness.run fuel (s' :: ss) h'
    | .fault r => .fault r
    | .refused r => .refused r

/-- REPEAT is the host's control flow: "the host runs body n times" (R54). -/
def expandProgram : HarnessProgram → List HarnessStmt
  | .nil => []
  | .cons s rest => s :: expandProgram rest
  | .rep n body rest => (List.replicate n (expandProgram body)).flatten ++ expandProgram rest

/-- The pseudo-statement `ADDW rD, x, y`: "the three lines `ADD x, y`, `WAIT`, `MOV rD, RESULT`" (R54). -/
def addw (d : Fin 16) (x y : HarnessOperand) (rest : HarnessProgram) : HarnessProgram :=
  .cons (.add x y) (.cons .wait (.cons (.mov d) rest))

/-- The encoding of a statement: only `ADD` has one, its request word (R55). -/
def Harness.encoding (h : Harness) : HarnessStmt → Option ReqWord
  | .add x y => some (encode (.add (h.value x) (h.value y)))
  | .reset => none
  | .wait => none
  | .mov _ => none
  | .check _ => none
  | .idle _ => none
  | .comment _ => none

end Sys2Proof.Machine
end

