-- ==== Sys2Proof/Machine/Instances.lean ====
section
/-! DEFINITION. Several instances (60_exceptions.md rule R115): "They share no state, signal or resource. Each is a separate
copy of the state of `10_state.md` rule R16 with its own ports." -/

namespace Sys2Proof.Machine

/-- A step of instance `k` of a bank; the other instances stay as they are. A position that holds no instance does nothing
(log entry 15). The instances share the constants of Config: one LAT_MAX, and equal free values where their counters and
operands are equal (log entries 4, 5, 6 and 15). -/
def bankStep (k : Nat) (bank : List State) : Host.Outcome (List State) Fault Refusal :=
  match bank[k]? with
  | none => .next bank
  | some s =>
    match step s with
    | .next s' => .next (bank.set k s')
    | .fault r => .fault r
    | .refused r => .refused r

end Sys2Proof.Machine
end

