-- ==== Sys2Proof/Machine/Reference.lean ====
section
/-! DEFINITION. The spec's other two ways of writing `fp_add`, over mathematical integers (R9): the loop listing of R58 and
the closed form of R60; and the loop without its early exit, of R87. The machine runs `fpAdd` (Machine/FpAdd.lean); that these
agree with it is stated in the obligations. -/

namespace Sys2Proof.Machine

/-- A biased exponent as a number, `p[30:23]`. -/
def expNat (p : Word) : Nat := (expOf p).toNat

/-- The 24-bit significand `{1'b1, p[22:0]}` as a number. -/
def sigNat (p : Word) : Nat := 2 ^ 23 + (fracOf p).toNat

/-- How the alignment loop of the listing ended: with both exponents equal, or with one operand negligible. -/
inductive ListedAlign where
  | aligned (e ma mb : Nat)
  | neglA
  | neglB
deriving DecidableEq, Repr

/-- Step 3 of R58, with a bound on the iterations (log entry 12). -/
def listedAlign : (fuel ea eb ma mb : Nat) → ListedAlign
  | 0, ea, _, ma, mb => .aligned ea ma mb
  | fuel + 1, ea, eb, ma, mb =>
    if ea ≠ eb then
      if ea < eb then
        if ma / 2 = 0 then .neglA else listedAlign fuel (ea + 1) eb (ma / 2) mb
      else
        if mb / 2 = 0 then .neglB else listedAlign fuel ea (eb + 1) ma (mb / 2)
    else .aligned ea ma mb

/-- Step 8 of R58, with a bound on the iterations: the normalized magnitude and exponent, or none for UNDERFLOW. -/
def listedNormalize : (fuel m : Nat) → (e : Int) → Option (Nat × Int)
  | 0, _, _ => none
  | fuel + 1, m, e =>
    if m.testBit 23 = false then
      if e - 1 ≤ 0 then none else listedNormalize fuel (m * 2) (e - 1)
    else some (m, e)

/-- Step 9 of R58: `{rs, e[7:0], m[22:0]}`. -/
def listedAssemble (rs : Bool) (e : Int) (m : Nat) : Word := assemble rs (BitVec.ofInt 8 e) (BitVec.ofNat 23 m)

/-- Steps 8 and 9 of R58. -/
def listedFinish (rs : Bool) (m : Nat) (e : Int) : Word × OutcomeTag :=
  match listedNormalize 256 m e with
  | none => (0x00000000#32, .underflow)
  | some (m', e') => (listedAssemble rs e' m', .normal)

/-- Steps 4 to 9 of R58. -/
def listedAdd (sa sb : Bool) (e ma mb : Nat) : Word × OutcomeTag :=
  let s : Int := (if sa then -(ma : Int) else ma) + (if sb then -(mb : Int) else mb)
  let rs : Bool := decide (s < 0)
  let m : Nat := s.natAbs
  if m = 0 then (0x00000000#32, .zeroSum)
  else if m.testBit 24 = true then
    if (e : Int) + 1 ≥ 255 then (assemble rs 0xFF#8 0#23, .overflow)
    else listedFinish rs (m / 2) ((e : Int) + 1)
  else listedFinish rs m e

/-- The consolidated listing (R58): the result and the tag of its exit. -/
def fpAddListing (a b : Word) : Word × OutcomeTag :=
  if a.extractLsb' 0 31 = 0#31 then (b, .zeroA)
  else if b.extractLsb' 0 31 = 0#31 then (a, .zeroB)
  else
    match listedAlign 255 (expNat a) (expNat b) (sigNat a) (sigNat b) with
    | .neglA => (b, .neglA)
    | .neglB => (a, .neglB)
    | .aligned e ma mb => listedAdd (signOf a) (signOf b) e ma mb

/-- The alignment in closed form (R84): the tag, the common exponent and the two significands. -/
def closedAlign (a b : Word) : ListedAlign :=
  let d := (expNat a - expNat b) + (expNat b - expNat a)
  if 24 ≤ d then
    if expNat a < expNat b then .neglA else .neglB
  else if expNat a < expNat b then .aligned (expNat b) (sigNat a / 2 ^ d) (sigNat b)
  else .aligned (expNat a) (sigNat a) (sigNat b / 2 ^ d)

/-- What the normalizer answers in closed form (R102). -/
inductive ClosedNorm where
  | overflow
  | underflow
  | normal (e m : Nat)
deriving DecidableEq, Repr

/-- The normalizer in closed form (R102); `msb(m)` is `Nat.log2 m`. A `normal` answer holds the exponent and the magnitude
that step 9 assembles. -/
def closedNorm (m e : Nat) : ClosedNorm :=
  if 2 ^ 24 ≤ m then
    if 255 ≤ e + 1 then .overflow else .normal (e + 1) (m / 2)
  else
    let k := 23 - Nat.log2 m
    if 1 ≤ k ∧ e ≤ k then .underflow else .normal (e - k) (m * 2 ^ k)

/-- The loop-free form of `fp_add` (R60). -/
def fpAddClosed (a b : Word) : Word :=
  if a.extractLsb' 0 31 = 0#31 then b
  else if b.extractLsb' 0 31 = 0#31 then a
  else
    match closedAlign a b with
    | .neglA => b
    | .neglB => a
    | .aligned e ma mb =>
      let s : Int := (if signOf a then -(ma : Int) else ma) + (if signOf b then -(mb : Int) else mb)
      if s.natAbs = 0 then 0x00000000#32
      else
        match closedNorm s.natAbs e with
        | .overflow => assemble (decide (s < 0)) 0xFF#8 0#23
        | .underflow => 0x00000000#32
        | .normal e' m' => assemble (decide (s < 0)) (BitVec.ofNat 8 e') (BitVec.ofNat 23 m')

/-- The alignment loop that ignores the `== 0` tests and shifts to the end (R87): common exponent and significands. -/
def alignToTheEnd : (fuel ea eb ma mb : Nat) → Nat × Nat × Nat
  | 0, ea, _, ma, mb => (ea, ma, mb)
  | fuel + 1, ea, eb, ma, mb =>
    if ea < eb then alignToTheEnd fuel (ea + 1) eb (ma / 2) mb
    else if eb < ea then alignToTheEnd fuel ea (eb + 1) ma (mb / 2)
    else (ea, ma, mb)

/-- `fp_add` on two non-zero operands without the negligible-operand exit (R87). -/
def fpAddWithoutExit (a b : Word) : Word :=
  let r := alignToTheEnd 255 (expNat a) (expNat b) (sigNat a) (sigNat b)
  (listedAdd (signOf a) (signOf b) r.1 r.2.1 r.2.2).1

end Sys2Proof.Machine
end

