-- ==== Sys2Proof/Safety.lean ====
section
/-! DEFINITION. What counts as a proper run: the invariant of the registers, and the host's side of the protocol. -/

namespace Sys2Proof.Machine

/-- What holds of the registers from the first reset edge on:
a request in flight has no valid result yet, and at least one edge and at most LAT_MAX edges left (R19, R20, R23);
a valid result is the sum of the operands last accepted (R20, R21). -/
structure State.Inv (s : State) : Prop where
  busy_not_valid : s.resetSeen = true → s.busy = true → s.outValid = false
  busy_timer_pos : s.resetSeen = true → s.busy = true → 1 ≤ s.timer
  busy_timer_le : s.resetSeen = true → s.busy = true → s.timer ≤ Config.latMax
  valid_res : s.resetSeen = true → s.outValid = true → s.res = fpAdd s.opa s.opb

/-- The host keeps R126 at this edge: after the first reset `rst` and `in_valid` are driven, and at an accepting edge all
operand bits are. -/
def Ports.defined (p : Ports) (s : State) : Prop :=
  (s.resetSeen = true → p.rst ≠ .undriven ∧ p.inValid ≠ .undriven) ∧
  (p.rst = .low → p.inValid = .high → s.busy = false → p.inA.isSome = true ∧ p.inB.isSome = true)

/-- The host keeps R126 at the coming step. A loss of power breaks no rule of the protocol. -/
def State.hostDefined (s : State) : Prop :=
  match s.nextEvent with
  | .edge p => p.defined s
  | .powerLoss => True

/-- An event is a rising edge without reset at which `in_valid` is driven: the edges over which the latency is counted
("every request completes within LAT_MAX edges unless a reset intervenes", R127). -/
def Event.quiet : Event → Bool
  | .edge p => decide (p.rst = .low) && decide (p.inValid ≠ .undriven)
  | .powerLoss => false

/-- `n` steps, as `Host.Core.run` takes them, on this machine's own types. -/
def run : Nat → State → Host.Outcome State Fault Refusal
  | 0, s => .next s
  | n + 1, s =>
    match step s with
    | .next s' => run n s'
    | .fault r => .fault r
    | .refused r => .refused r

/-- The registers of R16 that a port or the datapath reads: BUSY, OUT_VALID, RES, OPA and OPB have the values after a reset
edge, and so has the timer (R31). -/
def State.registersReset (s : State) : Prop :=
  s.busy = false ∧ s.outValid = false ∧ s.res = 0x00000000#32 ∧ s.opa = 0x00000000#32 ∧ s.opb = 0x00000000#32 ∧ s.timer = 0

/-- An accepting edge for the request `(a, b)` (R59): no reset, BUSY = 0, `in_valid` = 1, the operands on their ports. -/
def State.acceptsNext (s : State) (a b : Word) : Prop :=
  ∃ p, s.nextEvent = .edge p ∧ p.rst = .low ∧ p.inValid = .high ∧ p.inA = some a ∧ p.inB = some b ∧ s.busy = false

/-- A reset edge (R119). -/
def State.resetsNext (s : State) : Prop := ∃ p, s.nextEvent = .edge p ∧ p.rst = .high

/-- A completion edge (R59): no reset, `in_valid` driven, BUSY = 1 and `done`. -/
def State.completesNext (s : State) : Prop :=
  ∃ p, s.nextEvent = .edge p ∧ p.rst = .low ∧ p.inValid ≠ .undriven ∧ s.busy = true ∧ s.done = true

/-- The distance of two biased exponents, `|E(a) - E(b)|` (R65, R84). -/
def expDistance (a b : Word) : Nat :=
  ((expOf a).toNat - (expOf b).toNat) + ((expOf b).toNat - (expOf a).toNat)

end Sys2Proof.Machine
end

