-- ==== Sys2Proof/Certificates/Slice0/Obligations.lean ====
section
/-! DEFINITION. The statements for the provers. Each docstring names the rule of spec/ it formalises. -/

open Sys2Proof Sys2Proof.Machine

/-! ### Encoding -/

/-- R48: a in bits 63..32 of the request word and b in bits 31..0. -/
def Obligations.RequestWordHoldsOperands : Prop :=
  ∀ (a b : Word) (i : Nat), i < 32 →
    (encode (.add a b)).getLsbD (32 + i) = a.getLsbD i ∧ (encode (.add a b)).getLsbD i = b.getLsbD i

/-- R50: every 64-bit request word is `ADD`, with a and b taken from the two halves. -/
def Obligations.EveryRequestWordIsAdd : Prop :=
  ∀ w : ReqWord, decode w = .add (w.extractLsb' 32 32) (w.extractLsb' 0 32)

/-- R48, R51, R52: the decoder on the opcode table's words and the encoder are inverse to each other, every 64-bit word
decodes, and nothing shorter or longer does. -/
def Obligations.TableWordsAndEncoderAgree : Prop :=
  (∀ i : Instr, i.wf = true → decodeTableWord 64 (encode i).toNat = some i) ∧
  (∀ w : Nat, w < 2 ^ 64 → ∃ i, decodeTableWord 64 w = some i ∧ i.wf = true ∧ (encode i).toNat = w) ∧
  (∀ nbits w : Nat, nbits ≠ 64 ∨ 2 ^ 64 ≤ w → decodeTableWord nbits w = none)

/-- R55 and the tables of programs P1 and P3 (95_test_vectors.md): request words written out there. A sanity statement. -/
def Obligations.PrintedRequestWordsDecode : Prop :=
  decode 0x3F80000040000000#64 = .add 0x3F800000#32 0x40000000#32 ∧
  decode 0x40900000C0900000#64 = .add 0x40900000#32 0xC0900000#32 ∧
  decode 0x0000000080000000#64 = .add 0x00000000#32 0x80000000#32 ∧
  encode (.add 0x7F7FFFFF#32 0x7F7FFFFF#32) = 0x7F7FFFFF7F7FFFFF#64

/-! ### ADD and the step -/

/-- R56: `ADD` writes `fp_add(a, b)`, the wiring of the sub-units, to RES, for every pair of operands; the worked example of the
rule. R59: OUT_VALID <- 1 and BUSY <- 0, as the completion edge has them, after a reset edge (R122, R123). That `exec` is the
completion edge in every such state, BUSY = 0 included, is the model's choice (log entry 8). -/
def Obligations.AddWritesTheSum : Prop :=
  (∀ (a b : Word) (s : State), s.resetSeen = true → exec (.add a b) s = .next
    { s with
      res := (schSelect a b (schDetect a b).za (schDetect a b).zb (eau a b).tagAl
        (mat (eau a b).sa (eau a b).sb (eau a b).ma (eau a b).mb).sumZero
        (nu (mat (eau a b).sa (eau a b).sb (eau a b).ma (eau a b).mb).rs
          (mat (eau a b).sa (eau a b).sb (eau a b).ma (eau a b).mb).m (eau a b).e).ovf
        (nu (mat (eau a b).sa (eau a b).sb (eau a b).ma (eau a b).mb).rs
          (mat (eau a b).sa (eau a b).sb (eau a b).ma (eau a b).mb).m (eau a b).e).unf
        (mat (eau a b).sa (eau a b).sb (eau a b).ma (eau a b).mb).rs
        (nu (mat (eau a b).sa (eau a b).sb (eau a b).ma (eau a b).mb).rs
          (mat (eau a b).sa (eau a b).sb (eau a b).ma (eau a b).mb).m (eau a b).e).nres).result
      outValid := true
      busy := false }) ∧
  (∀ (a b : Word) (s : State), s.resetSeen = true →
    exec (.add a b) s = .next { s with res := fpAdd a b, outValid := true, busy := false }) ∧
  fpAdd 0x3F800000#32 0x40000000#32 = 0x40400000#32

/-- The frame of `ADD`, after a reset edge (R122, R123): of the spec's registers it writes RES, OUT_VALID and BUSY (R59), and leaves OPA and OPB alone (R22). The
block has no memory and no flags (R27, R33), so there is no more of the spec's to leave alone. That it leaves the timer alone is
the model's choice (log entry 7; the spec leaves the timer any value while BUSY = 0), and so is what it does to the model's own
fields, which are those of log entries 1 (events), 3 (resetSeen) and 6 (doneDraws, draws). -/
def Obligations.AddLeavesTheRestAlone : Prop :=
  ∀ (a b : Word) (s t : State), s.resetSeen = true → exec (.add a b) s = .next t →
    t.opa = s.opa ∧ t.opb = s.opb ∧ t.timer = s.timer ∧ t.resetSeen = s.resetSeen ∧ t.events = s.events ∧
      t.doneDraws = s.doneDraws ∧ t.draws = s.draws

/-- R56, R59: after a reset edge (R123) the step at a completion edge is `exec` of the operation decoded from the request word
in flight, with the event and the timer's choice used up (that `exec` stands at the completion edge is the model's choice, log
entry 8). -/
def Obligations.StepRunsTheDecodedRequest : Prop :=
  ∀ s : State, s.resetSeen = true → s.completesNext →
    step s = exec (decode s.request) s.dropEvent.dropDraw ∧ decode s.request = .add s.opa s.opb

/-- Log entry 8 (the model's choice of how the host places an operation): a word placed by `withFetchWord` is the operation
the very next step runs, in every state after a reset edge (R123). -/
def Obligations.PlacedWordRunsNext : Prop :=
  ∀ (s : State) (w : ReqWord), s.resetSeen = true →
    step (s.withFetchWord 64 w.toNat) = exec (decode w) (s.withFetchWord 64 w.toNat).dropEvent.dropDraw

/-! ### The clock edge -/

/-- R59: the branches of the edge rule in their priority order, with every register of each, and when `done` is forced. The
reset branch holds in every state; what the others do is claimed of states after a reset edge (R123). The timer as a number that
counts down is log entry 7, and the list of choices is log entry 6. -/
def Obligations.ClockEdgeBranches : Prop :=
  ∀ (s : State) (p : Ports),
    (p.rst = .high → p.inValid ≠ .undriven → clockEdge p s = .next
      { s with busy := false, outValid := false, res := 0x00000000#32, opa := 0x00000000#32, opb := 0x00000000#32,
               timer := 0, resetSeen := true }) ∧
    (s.resetSeen = true →
    (∀ a b, p.rst = .low → p.inValid = .high → s.busy = false → p.inA = some a → p.inB = some b → clockEdge p s = .next
      { s with opa := a, opb := b, busy := true, outValid := false, timer := Config.latMax }) ∧
    (p.rst = .low → p.inValid ≠ .undriven → s.busy = true → s.done = true → clockEdge p s = .next
      { s with res := fpAdd s.opa s.opb, outValid := true, busy := false,
               doneDraws := s.doneDraws.tail, draws := s.draws + 1 }) ∧
    (p.rst = .low → p.inValid ≠ .undriven → s.busy = true → s.done = false → clockEdge p s = .next
      { s with timer := s.timer - 1, doneDraws := s.doneDraws.tail, draws := s.draws + 1 }) ∧
    (p.rst = .low → p.inValid = .low → s.busy = false → clockEdge p s = .next s) ∧
    (s.timer ≤ 1 → s.done = true) ∧ (∀ d ds, 1 < s.timer → s.doneDraws = d :: ds → s.done = d))

/-- R119: a reset edge gives every register its reset value, from every state (before the first reset too) and whatever
`in_valid` is, so it neither accepts nor completes. After the first reset R126 asks for a driven `in_valid`. -/
def Obligations.ResetEdgeWinsFromAnyState : Prop :=
  ∀ (s : State) (p : Ports), s.nextEvent = .edge p → p.rst = .high → (s.resetSeen = true → p.inValid ≠ .undriven) →
    ∃ t, step s = .next t ∧ t.registersReset ∧ t.resetSeen = true ∧ t.inReady = true ∧ t.events = s.events.tail

/-- R121: any number of reset edges, one or more, leaves the same state; `in_ready` is then 1, and the next edge that offers
a request accepts it. -/
def Obligations.OneResetEdgeIsEnough : Prop :=
  ∀ (s : State) (l : List Ports) (rest : List Event), l ≠ [] → (∀ p ∈ l, p.rst = .high ∧ p.inValid ≠ .undriven) →
    s.events = l.map Event.edge ++ rest →
    run l.length s = .next { s.resetEdge with events := rest } ∧ ({ s.resetEdge with events := rest } : State).inReady = true ∧
    ∀ a b more, rest = .edge (Ports.offering a b) :: more →
      step { s.resetEdge with events := rest } = .next (({ s.resetEdge with events := more } : State).accept a b)

/-- R120: a reset edge with a request in flight abandons it. Over any number of later steps without a loss of power: until the
host makes a new request nothing is in flight, so nothing completes; and until a later request completes, no result is written
and `out_valid` stays 0. -/
def Obligations.ResetAbandonsTheRequest : Prop :=
  ∀ (s : State) (p : Ports) (rest : List Event), s.busy = true → s.events = .edge p :: rest → p.rst = .high →
    p.inValid ≠ .undriven →
    (∃ t, run 1 s = .next t) ∧
    ∀ n t, run (n + 1) s = .next t → (∀ j u, 1 ≤ j → j ≤ n → run j s = .next u → u.nextEvent ≠ .powerLoss) →
      ((∀ j u, 1 ≤ j → j ≤ n → run j s = .next u → ¬ ∃ a b, u.acceptsNext a b) → t.busy = false) ∧
      ((∀ j u, 1 ≤ j → j ≤ n → run j s = .next u → ¬ u.completesNext) → t.outValid = false ∧ t.res = 0x00000000#32)

/-- R124: after a reset edge (R123) and with BUSY = 1, `in_ready` is 0, an offer has no effect (the edge does the same without
it) and the captured operands stay. -/
def Obligations.OffersWhileBusyAreNotRemembered : Prop :=
  ∀ (s : State) (p q : Ports), s.resetSeen = true → s.busy = true → p.rst = .low → q.rst = .low → p.inValid ≠ .undriven → q.inValid ≠ .undriven →
    s.inReady = false ∧ clockEdge p s = clockEdge q s ∧
    ∀ t, clockEdge p s = .next t → t.opa = s.opa ∧ t.opb = s.opb

/-- R126, R22: after a reset edge (R123) the operand ports are read at an accepting edge only; at every other edge they may hold
anything, undriven bits included. -/
def Obligations.OperandPortsAreSampledOnlyWhenAccepting : Prop :=
  ∀ (s : State) (p : Ports) (ia ib : Option Word), s.resetSeen = true → ¬ (p.rst = .low ∧ p.inValid = .high ∧ s.busy = false) →
    clockEdge p s = clockEdge { p with inA := ia, inB := ib } s

/-- R126: a step is refused exactly when the host leaves an input undriven that R126 asks for at that edge: after the first reset
`rst` and `in_valid`, at an accepting edge the operands. On states before the first reset edge the "exactly" rests on the model's
choice (log entry 3): undriven control ports there give a free draw, and a request offered there is run, not refused. The form of
an undriven level is log entry 2. -/
def Obligations.RefusesExactlyUndrivenInputs : Prop :=
  ∀ s : State, (∃ r, step s = .refused r) ↔ ¬ s.hostDefined

/-- R107, R118: no step ends in a fault; and R126: if the host drives what that rule asks for, the step has a next state. That
this holds before the first reset edge too, for a request offered there among others, is the model's choice (log entry 3). -/
def Obligations.EveryStepHasANextStateOrIsRefused : Prop :=
  ∀ s : State, (∀ r, step s ≠ .fault r) ∧ (s.hostDefined → ∃ t, step s = .next t)

/-! ### The registers -/

/-- R24: the outputs are functions of the registers. -/
def Obligations.OutputsReadTheRegisters : Prop :=
  ∀ s : State, s.inReady = !s.busy ∧ s.outValidPort = s.outValid ∧ s.outResult = s.res

/-- R19: BUSY rises only at an accepting edge and falls only at a completion edge or a reset edge; and each of these edges sets
it so. -/
def Obligations.BusyRisesAndFallsWhereStated : Prop :=
  ∀ s t : State, step s = .next t → t.resetSeen = true →
    (s.busy = false → (t.busy = true ↔ ∃ a b, s.acceptsNext a b)) ∧
    (s.busy = true → (t.busy = false ↔ s.completesNext ∨ s.resetsNext))

/-- R20: OUT_VALID rises only at a completion edge, which always sets it, and falls only at an accepting edge or a reset edge,
which always clear it. -/
def Obligations.OutValidRisesAndFallsWhereStated : Prop :=
  ∀ s t : State, step s = .next t → t.resetSeen = true →
    (s.completesNext → t.outValid = true) ∧
    (s.outValid = false → t.outValid = true → s.completesNext) ∧
    ((∃ a b, s.acceptsNext a b) → t.outValid = false) ∧ (s.resetsNext → t.outValid = false) ∧
    (s.outValid = true → t.outValid = false → (∃ a b, s.acceptsNext a b) ∨ s.resetsNext)

/-- R21: RES is written only at a completion edge, with `fp_add(OPA, OPB)`, and by reset, with 0; between those edges it holds
its value. -/
def Obligations.ResIsWrittenOnlyWhereStated : Prop :=
  ∀ s t : State, step s = .next t → t.resetSeen = true →
    (s.completesNext → t.res = fpAdd s.opa s.opb) ∧ (s.resetsNext → t.res = 0x00000000#32) ∧
    (¬ s.completesNext → ¬ s.resetsNext → t.res = s.res)

/-- R22: OPA and OPB are written only at an accepting edge, with `in_a` and `in_b`, and by reset, with 0. -/
def Obligations.OperandRegistersAreWrittenOnlyWhereStated : Prop :=
  ∀ s t : State, step s = .next t → t.resetSeen = true →
    (∀ a b, s.acceptsNext a b → t.opa = a ∧ t.opb = b) ∧
    (s.resetsNext → t.opa = 0x00000000#32 ∧ t.opb = 0x00000000#32) ∧
    ((¬ ∃ a b, s.acceptsNext a b) → ¬ s.resetsNext → t.opa = s.opa ∧ t.opb = s.opb)

/-- R23, S2 of 93_implementation_defined.md: while BUSY = 0 the timer is never read: with another value in it an edge after the
first reset edge (R123) does the same to everything but the timer, and the same to the timer too if it leaves a request in
flight. A loss of power is no edge: after it the registers are unspecified (R117). -/
def Obligations.TimerIsUnreadWhileIdle : Prop :=
  ∀ (s : State) (n : Nat), s.resetSeen = true → s.nextEvent ≠ .powerLoss → s.busy = false →
    (∀ t, step s = .next t → ∃ k, step { s with timer := n } = .next { t with timer := k } ∧ (t.busy = true → k = t.timer)) ∧
    (∀ r, step s = .refused r → step { s with timer := n } = .refused r)

/-- The invariant of Safety.lean (R19 to R23) holds right after reset. -/
def Obligations.ResetSatisfiesTheInvariant : Prop := State.reset.Inv ∧ State.reset.registersReset

/-- Every step keeps the invariant of the registers (R19 to R23), from every state that meets it: a valid result is always the
sum of the operands last accepted, and a request in flight has between 1 and LAT_MAX edges left. -/
def Obligations.EveryStepKeepsTheInvariant : Prop :=
  ∀ s t : State, s.Inv → step s = .next t → t.Inv

/-- R117, R123: a loss of power and then a reset edge leave every register at its reset value, whatever the registers held in
between and whatever `in_valid` is. Two readings of the model's: `in_valid` may be undriven at that reset edge even if a reset
came before the loss of power, because "after the first reset" (R126) is read as since power-up (log entry 3); and the timer,
which reset clears (R31), is then 0 (log entry 7). -/
def Obligations.ResetAfterPowerLossSettlesTheRegisters : Prop :=
  ∀ (s : State) (p : Ports) (rest : List Event), s.events = .powerLoss :: .edge p :: rest → p.rst = .high →
    ∃ t, run 2 s = .next t ∧ t.registersReset ∧ t.resetSeen = true ∧ t.events = rest

/-! ### Latency -/

/-- R118, R127: a request in flight completes within the edges its timer allows, hence within LAT_MAX, if no reset and no loss
of power comes; until then it stays in flight and RES keeps its value; the result is the sum of the captured operands whatever
the latency (R41). The premise on the state is the invariant of EveryStepKeepsTheInvariant. -/
def Obligations.RequestInFlightCompletesInTime : Prop :=
  ∀ s : State, s.Inv → s.resetSeen = true → s.busy = true → (∀ ev ∈ s.events.take s.timer, ev.quiet = true) →
    ∃ n t, 1 ≤ n ∧ n ≤ s.timer ∧ n ≤ Config.latMax ∧ run n s = .next t ∧
      t.busy = false ∧ t.outValid = true ∧ t.res = fpAdd s.opa s.opb ∧ t.opa = s.opa ∧ t.opb = s.opb ∧
      ∀ j, j < n → ∃ u, run j s = .next u ∧ u.busy = true ∧ u.outValid = false ∧ u.res = s.res

/-- R127, R128, R41: from every state after a reset edge (R123) with BUSY = 0, whatever it has done before, an accepted request
completes L edges later, 1 ≤ L ≤ LAT_MAX, with the sum of the two operands; in between BUSY = 1, so no edge before L + 1 accepts
another one. -/
def Obligations.AcceptedRequestCompletes : Prop :=
  ∀ (s : State) (p : Ports) (rest : List Event) (a b : Word), s.resetSeen = true → s.busy = false →
    s.events = .edge p :: rest → p.rst = .low → p.inValid = .high → p.inA = some a → p.inB = some b →
    (∀ ev ∈ rest.take Config.latMax, ev.quiet = true) →
    ∃ L t, 1 ≤ L ∧ L ≤ Config.latMax ∧ run (1 + L) s = .next t ∧
      t.busy = false ∧ t.outValid = true ∧ t.res = fpAdd a b ∧ t.opa = a ∧ t.opb = b ∧
      ∀ j, 1 ≤ j → j ≤ L → ∃ u, run j s = .next u ∧ u.busy = true ∧ u.outValid = false ∧ u.res = s.res

/-- R127, S1: after a reset edge (R123) every latency from 1 to LAT_MAX is possible: with the timer's choices written out (L - 1
times "not yet", then "complete now"; the list is the model's, log entry 6), the request completes at exactly the L-th edge. -/
def Obligations.EveryLatencyIsPossible : Prop :=
  ∀ (s : State) (p : Ports) (rest : List Event) (a b : Word) (L : Nat) (ds : List Bool), s.resetSeen = true →
    s.busy = false → s.events = .edge p :: rest → p.rst = .low → p.inValid = .high → p.inA = some a → p.inB = some b →
    (∀ ev ∈ rest.take L, ev.quiet = true) → 1 ≤ L → L ≤ Config.latMax →
    s.doneDraws = List.replicate (L - 1) false ++ true :: ds →
    (∃ t, run (1 + L) s = .next t ∧ t.outValid = true ∧ t.res = fpAdd a b ∧ t.doneDraws = ds) ∧
    ∀ j, 1 ≤ j → j ≤ L → ∃ u, run j s = .next u ∧ u.busy = true

/-! ### exponent_align_unit -/

/-- R84: the alignment in closed form, for every pair of patterns; R86: the common exponent is one of the two, so 0..255. -/
def Obligations.AlignmentClosedForm : Prop :=
  ∀ a b : Word,
    ((expOf a).toNat < (expOf b).toNat → 24 ≤ expDistance a b → (eau a b).tagAl = .neglA) ∧
    ((expOf b).toNat < (expOf a).toNat → 24 ≤ expDistance a b → (eau a b).tagAl = .neglB) ∧
    (expDistance a b < 24 → (eau a b).tagAl = .aligned ∧
      (eau a b).e.toNat = max (expOf a).toNat (expOf b).toNat ∧
      (eau a b).ma.toNat =
        (if (expOf a).toNat < (expOf b).toNat then (significand a).toNat / 2 ^ expDistance a b else (significand a).toNat) ∧
      (eau a b).mb.toNat =
        (if (expOf b).toNat < (expOf a).toNat then (significand b).toNat / 2 ^ expDistance a b else (significand b).toNat))

/-- R85: the alignment loop runs `min(d, 24)` times. -/
def Obligations.AlignmentIterationCount : Prop :=
  ∀ a b : Word, alignIterations a b = min (expDistance a b) 24

/-- R65: with neither operand zero, a distance of 24 or more returns the operand with the larger exponent, every bit unchanged;
a distance of 23 or less leaves the shifted significand a leading 1 at bit 23 - d. -/
def Obligations.NegligibleOperandLaw : Prop :=
  ∀ a b : Word, isZero a = false → isZero b = false →
    (24 ≤ expDistance a b → fpAdd a b = if (expOf a).toNat < (expOf b).toNat then b else a) ∧
    (expDistance a b ≤ 23 → (eau a b).tagAl = .aligned ∧
      ((expOf a).toNat ≤ (expOf b).toNat → Nat.log2 (eau a b).ma.toNat = 23 - expDistance a b) ∧
      ((expOf b).toNat ≤ (expOf a).toNat → Nat.log2 (eau a b).mb.toNat = 23 - expDistance a b))

/-- R87: leaving out the negligible-operand exit does not change the result. -/
def Obligations.EarlyExitDoesNotChangeTheResult : Prop :=
  ∀ a b : Word, isZero a = false → isZero b = false → fpAdd a b = fpAddWithoutExit a b

/-! ### mantissa_add_tree -/

/-- R91, R92: the 27-bit sum is the exact integer sum of the signed significands, at most 2^25 - 2 in magnitude; `rs` is 1
exactly when it is negative and `m` is its absolute value. -/
def Obligations.SignedSumIsExact : Prop :=
  ∀ (sa sb : Bool) (ma mb : Sig24),
    let s : Int := (if sa then -(ma.toNat : Int) else ma.toNat) + (if sb then -(mb.toNat : Int) else mb.toNat)
    (signedSum sa sb ma mb).toInt = s ∧ s.natAbs ≤ 2 ^ 25 - 2 ∧
    ((mat sa sb ma mb).rs = true ↔ s < 0) ∧ (mat sa sb ma mb).m.toNat = s.natAbs

/-- R93: under ALIGNED, `sum_zero` is 1 exactly when the magnitude is 0, exactly when the two aligned significands are equal and
the signs differ; and for non-zero operands the result is then `0x00000000` with tag ZERO_SUM. -/
def Obligations.ZeroSumOnlyByCancellation : Prop :=
  ∀ a b : Word, (eau a b).tagAl = .aligned →
    ((matOf a b).sumZero = true ↔ (matOf a b).m = 0#25) ∧
    ((matOf a b).sumZero = true ↔ (eau a b).ma = (eau a b).mb ∧ signOf a ≠ signOf b) ∧
    (isZero a = false → isZero b = false → (matOf a b).sumZero = true →
      fpAdd a b = 0x00000000#32 ∧ outcomeTag a b = .zeroSum)

/-! ### normalizer_unit -/

/-- R102: the normalizer in closed form, for m in 1 .. 2^25 - 2 and e in 0..255 (R97 to R101). -/
def Obligations.NormalizerClosedForm : Prop :=
  ∀ (rs : Bool) (m : Mag25) (e : Exp10), 1 ≤ m.toNat → m.toNat ≤ 2 ^ 25 - 2 → e.toNat ≤ 255 →
    match closedNorm m.toNat e.toNat with
    | .overflow => (nu rs m e).ovf = true ∧ (nu rs m e).unf = false
    | .underflow => (nu rs m e).ovf = false ∧ (nu rs m e).unf = true
    | .normal e' m' => (nu rs m e).ovf = false ∧ (nu rs m e).unf = false ∧
        (nu rs m e).nres = assemble rs (BitVec.ofNat 8 e') (BitVec.ofNat 23 m')

/-- R103: one right shift on a carry or at most 23 left shifts, never both. R100: `ovf` and `unf` are never both 1. -/
def Obligations.NormalizerIterationBound : Prop :=
  ∀ (rs : Bool) (m : Mag25) (e : Exp10),
    (m ≠ 0#25 → leftShifts m e ≤ 23) ∧ (m.getLsbD 24 = true → leftShifts m e = 0) ∧
    ¬ ((nu rs m e).ovf = true ∧ (nu rs m e).unf = true)

/-- R105: a NORMAL result has biased exponent 1..255, and 255 only from a common exponent of 255 with no carry and no shift,
which needs an operand with biased exponent 255. -/
def Obligations.NormalResultExponent : Prop :=
  ∀ a b : Word, outcomeTag a b = .normal →
    1 ≤ (expOf (fpAdd a b)).toNat ∧
    ((expOf (fpAdd a b)).toNat = 255 → (eau a b).e.toNat = 255 ∧ (matOf a b).m.getLsbD 24 = false ∧
      (matOf a b).m.getLsbD 23 = true ∧ ((expOf a).toNat = 255 ∨ (expOf b).toNat = 255))

/-- R98 and §8 as 95_test_vectors.md section 1.2 states it: two operands of the same sign with biased exponent 254 give the
infinity of that sign (decision D8: the exponent after the carry is 255). -/
def Obligations.LargestExponentsOverflow : Prop :=
  ∀ a b : Word, (expOf a).toNat = 254 → (expOf b).toNat = 254 → signOf a = signOf b →
    fpAdd a b = infPattern (signOf a) ∧ outcomeTag a b = .overflow

/-! ### special_case_handler -/

/-- R73: the constant results. -/
def Obligations.ConstantResults : Prop :=
  zeroPattern = 0x00000000#32 ∧ infPattern false = 0x7F800000#32 ∧ infPattern true = 0xFF800000#32

/-- R75: every tag but the last by its cause, and the result of each. `m` is the magnitude of the sum, `e` the common exponent,
`k` the number of places below bit 23 of its leading 1. -/
def Obligations.OutcomeTagsByCause : Prop :=
  ∀ a b : Word,
    (outcomeTag a b = .zeroA ↔ isZero a = true) ∧
    (outcomeTag a b = .zeroB ↔ isZero a = false ∧ isZero b = true) ∧
    (outcomeTag a b = .neglA ↔ isZero a = false ∧ isZero b = false ∧ (expOf a).toNat + 24 ≤ (expOf b).toNat) ∧
    (outcomeTag a b = .neglB ↔ isZero a = false ∧ isZero b = false ∧ (expOf b).toNat + 24 ≤ (expOf a).toNat) ∧
    (isZero a = false → isZero b = false → expDistance a b ≤ 23 →
      let m := (matOf a b).m.toNat
      let e := max (expOf a).toNat (expOf b).toNat
      let k := 23 - Nat.log2 m
      (outcomeTag a b = .zeroSum ↔ m = 0) ∧
      (outcomeTag a b = .overflow ↔ 2 ^ 24 ≤ m ∧ 255 ≤ e + 1) ∧
      (outcomeTag a b = .underflow ↔ m ≠ 0 ∧ m < 2 ^ 24 ∧ 1 ≤ k ∧ e ≤ k)) ∧
    (match outcomeTag a b with
      | .zeroA => fpAdd a b = b
      | .zeroB => fpAdd a b = a
      | .neglA => fpAdd a b = b
      | .neglB => fpAdd a b = a
      | .zeroSum => fpAdd a b = 0x00000000#32
      | .overflow => fpAdd a b = infPattern (matOf a b).rs
      | .underflow => fpAdd a b = 0x00000000#32
      | .normal => fpAdd a b = (nuOf a b).nres)

/-- R76: ZERO_SUM and UNDERFLOW give `0x00000000` whatever the signs; `0x80000000` comes out only through ZERO_A or ZERO_B. -/
def Obligations.SignOfZeroResults : Prop :=
  ∀ a b : Word,
    ((outcomeTag a b = .zeroSum ∨ outcomeTag a b = .underflow) → fpAdd a b = 0x00000000#32) ∧
    (fpAdd a b = 0x80000000#32 → outcomeTag a b = .zeroA ∨ outcomeTag a b = .zeroB)

/-! ### fp_add as a whole -/

/-- R58: the sub-units, composed as R57 says, compute exactly the consolidated listing, result and tag. -/
def Obligations.FpAddIsTheListing : Prop :=
  ∀ a b : Word, (fpAdd a b, outcomeTag a b) = fpAddListing a b

/-- R60: the loops have a loop-free equivalent. -/
def Obligations.FpAddIsTheClosedForm : Prop :=
  ∀ a b : Word, fpAdd a b = fpAddClosed a b ∧ (fpAddListing a b).1 = fpAddClosed a b

/-- R61: a zero of either sign on the left gives the right operand, bit for bit. -/
def Obligations.LeftZeroIdentity : Prop :=
  ∀ b : Word, fpAdd 0x00000000#32 b = b ∧ fpAdd 0x80000000#32 b = b

/-- R62: a zero on the right gives the left operand if that is no zero, and otherwise the zero on the right. -/
def Obligations.RightZeroIdentity : Prop :=
  ∀ a z : Word, isZero z = true →
    (a.extractLsb' 0 31 ≠ 0#31 → fpAdd a z = a) ∧ (a.extractLsb' 0 31 = 0#31 → fpAdd a z = z)

/-- R63: commutative, except for two zeros of different sign. -/
def Obligations.AdditionIsCommutative : Prop :=
  ∀ a b : Word,
    (¬ (isZero a = true ∧ isZero b = true ∧ signOf a ≠ signOf b) → fpAdd a b = fpAdd b a) ∧
    (isZero a = true → isZero b = true → signOf a ≠ signOf b → fpAdd a b = b ∧ fpAdd b a = a)

/-- R64: a non-zero pattern and the same with its sign flipped cancel to `0x00000000`, infinity and NaN patterns included; the
two zeros. -/
def Obligations.CancellationGivesZero : Prop :=
  (∀ a : Word, a.extractLsb' 0 31 ≠ 0#31 → fpAdd a (a ^^^ signMask) = 0x00000000#32) ∧
  fpAdd 0x00000000#32 (0x00000000#32 ^^^ signMask) = 0x80000000#32 ∧
  fpAdd 0x80000000#32 (0x80000000#32 ^^^ signMask) = 0x00000000#32

/-- R66: flipping both signs keeps the outcome tag, and flips the sign of the result unless the tag is ZERO_SUM or
UNDERFLOW. -/
def Obligations.SignSymmetry : Prop :=
  ∀ a b : Word,
    outcomeTag (a ^^^ signMask) (b ^^^ signMask) = outcomeTag a b ∧
    (outcomeTag a b = .zeroSum ∨ outcomeTag a b = .underflow →
      fpAdd (a ^^^ signMask) (b ^^^ signMask) = 0x00000000#32 ∧ fpAdd a b = 0x00000000#32) ∧
    (outcomeTag a b ≠ .zeroSum → outcomeTag a b ≠ .underflow →
      fpAdd (a ^^^ signMask) (b ^^^ signMask) = fpAdd a b ^^^ signMask)

/-- R67: where a result with biased exponent 0 or 255 can come from. -/
def Obligations.OutputRange : Prop :=
  (∀ a b : Word,
    (expOf (fpAdd a b) = 0#8 →
      ((outcomeTag a b = .zeroA ∨ outcomeTag a b = .neglA) ∧ fpAdd a b = b) ∨
      ((outcomeTag a b = .zeroB ∨ outcomeTag a b = .neglB) ∧ fpAdd a b = a) ∨
      ((outcomeTag a b = .zeroSum ∨ outcomeTag a b = .underflow) ∧ fpAdd a b = 0x00000000#32)) ∧
    (outcomeTag a b = .normal → expOf (fpAdd a b) ≠ 0#8) ∧
    (expOf (fpAdd a b) = 255#8 →
      ((outcomeTag a b = .zeroA ∨ outcomeTag a b = .neglA) ∧ fpAdd a b = b) ∨
      ((outcomeTag a b = .zeroB ∨ outcomeTag a b = .neglB) ∧ fpAdd a b = a) ∨
      (outcomeTag a b = .overflow ∧ ∃ rs, fpAdd a b = infPattern rs) ∨
      (outcomeTag a b = .normal ∧ (expOf a = 255#8 ∨ expOf b = 255#8)))) ∧
  fpAdd 0x7F800000#32 0x7F400000#32 = 0x7FE00000#32

/-- R68: from operands whose biased exponents are not 255, the result is an operand, a zero, an infinity, or a pattern with
biased exponent 1..254; never a NaN pattern and never a new subnormal. -/
def Obligations.FiniteInputClosure : Prop :=
  ∀ a b : Word, expOf a ≠ 255#8 → expOf b ≠ 255#8 →
    (fpAdd a b = a ∨ fpAdd a b = b ∨ fpAdd a b = 0x00000000#32 ∨ fpAdd a b = 0x7F800000#32 ∨ fpAdd a b = 0xFF800000#32 ∨
      (1 ≤ (expOf (fpAdd a b)).toNat ∧ (expOf (fpAdd a b)).toNat ≤ 254)) ∧
    ieeeClass (fpAdd a b) ≠ .nan ∧
    (ieeeClass (fpAdd a b) = .subnormal → fpAdd a b = a ∨ fpAdd a b = b)

/-- R69: for two normal operands and tag NORMAL, the result's magnitude is at most the exact sum's when the signs are equal, at
least the exact sum's when they differ, and its sign is the exact sum's. `scaledValue` is the value of R15 times 2^150
(log entry 16). -/
def Obligations.TruncationDirection : Prop :=
  ∀ a b : Word, ieeeClass a = .normal → ieeeClass b = .normal → outcomeTag a b = .normal →
    (signOf a = signOf b → (scaledValue (fpAdd a b)).natAbs ≤ (scaledValue a + scaledValue b).natAbs) ∧
    (signOf a ≠ signOf b → (scaledValue a + scaledValue b).natAbs ≤ (scaledValue (fpAdd a b)).natAbs) ∧
    (scaledValue (fpAdd a b)).sign = (scaledValue a + scaledValue b).sign

/-- The §8 scenarios S1 to S6 (95_test_vectors.md section 1.1), and the examples of R69, R104 and R109. A sanity statement. -/
def Obligations.WorkedExamples : Prop :=
  fpAdd 0x3F800000#32 0x40000000#32 = 0x40400000#32 ∧ fpAdd 0x3F800000#32 0xBF800000#32 = 0x00000000#32 ∧
  fpAdd 0x00000000#32 0x40B00000#32 = 0x40B00000#32 ∧ fpAdd 0x80000000#32 0x00000000#32 = 0x00000000#32 ∧
  fpAdd 0x3FC00000#32 0x3E800000#32 = 0x3FE00000#32 ∧ fpAdd 0x7F7FC99E#32 0x7F7FC99E#32 = 0x7F800000#32 ∧
  fpAdd 0x3F800000#32 0xBF7FFFFF#32 = 0x34000000#32 ∧ fpAdd 0x3F800001#32 0x3F800002#32 = 0x40000001#32 ∧
  fpAdd 0x00000000#32 0x80000000#32 = 0x80000000#32 ∧ fpAdd 0x7F800000#32 0x80000000#32 = 0x7F800000#32 ∧
  fpAdd 0x7FC00000#32 0x3F800000#32 = 0x7FC00000#32

/-! ### Around the block -/

/-- R115: instances share no state, so in a bank of instances after their reset edges (R123) a step of one instance steps that
instance alone, and edges of two different instances commute. After a loss of power, which is no edge, the registers are
unspecified (R117), so of it only the first is said. That instances step one at a time and in any order, and that a position without an instance does nothing, is the model's
choice (log entry 15). -/
def Obligations.InstancesAreIndependent : Prop :=
  (∀ (k : Nat) (bank bank' : List State), (∀ s ∈ bank, s.resetSeen = true) → bankStep k bank = .next bank' →
    bank'.length = bank.length ∧ (∀ j, j ≠ k → bank'[j]? = bank[j]?) ∧
    ∀ s, bank[k]? = some s → ∃ s', step s = .next s' ∧ bank'[k]? = some s') ∧
  (∀ (j k : Nat) (bank x y : List State), (∀ s ∈ bank, s.resetSeen = true ∧ s.nextEvent ≠ .powerLoss) →
    j ≠ k → bankStep j bank = .next x → bankStep k bank = .next y → ∃ z, bankStep k x = .next z ∧ bankStep j y = .next z)

/-- R54: what each harness statement does at the ports. From every state RESET is one reset edge, and MOV, CHECK, a comment, a
WAIT that finds `out_valid` = 1 and IDLE 0 leave the block alone. The statements that drive other edges are claimed of a block
after a reset edge, as R122 and R123 ask (before it, log entry 3 says what the model does): ADD offers its request at one edge
after another until an edge with `in_ready` = 1, which accepts it; WAIT drives `in_valid` = 0 until `out_valid` = 1; IDLE n is n
edges with `in_valid` = 0. An edge with given ports is the step of the block with that edge put before its events; that an
action is one edge, and that a CHECK is recorded and the host goes on, is the model's choice (log entry 14). -/
def Obligations.HarnessStatementsAtThePorts : Prop :=
  ∀ h : Harness,
    h.act .reset = .next ({ h with block := h.block.resetEdge }, none) ∧
    (∀ x y, h.block.resetSeen = true → h.block.inReady = true →
      h.act (.add x y) = .next ({ h with block := h.block.accept (h.value x) (h.value y) }, none)) ∧
    (∀ x y, h.block.resetSeen = true → h.block.inReady = false → ∃ b,
      step { h.block with events := .edge (Ports.offering (h.value x) (h.value y)) :: h.block.events } = .next b ∧
      h.act (.add x y) = .next ({ h with block := b }, some (.add x y)) ∧ b.opa = h.block.opa ∧ b.opb = h.block.opb) ∧
    (h.block.outValidPort = true → h.act .wait = .next (h, none)) ∧
    (h.block.resetSeen = true → h.block.outValidPort = false → ∃ b,
      step { h.block with events := .edge Ports.idle :: h.block.events } = .next b ∧
      h.act .wait = .next ({ h with block := b }, some .wait)) ∧
    (h.act (.idle 0) = .next (h, none) ∧
      ∀ n, h.block.resetSeen = true → ∃ b,
        step { h.block with events := .edge Ports.idle :: h.block.events } = .next b ∧
        h.act (.idle (n + 1)) = .next ({ h with block := b }, if n = 0 then none else some (.idle n))) ∧
    (∀ r, h.act (.mov r) = .next ({ h with vars := h.vars.set r h.block.outResult }, none)) ∧
    (∀ w, ∃ c, h.act (.check w) = .next ({ h with checks := h.checks ++ [c] }, none) ∧
      (c = true ↔ h.block.outValidPort = true ∧ h.block.outResult = w)) ∧
    (∀ text, h.act (.comment text) = .next (h, none))
end

