-- ==== Sys2Proof/Laws/Operands.lean ====
section
/-! SUPPORT. The small laws of patterns, fields and request words. -/

namespace Sys2Proof

@[simp] theorem reqA_requestWord (a b : Word) : reqA (requestWord a b) = a := by
  ext i hi
  simp only [reqA, requestWord, BitVec.getElem_extractLsb', BitVec.getLsbD_append]
  rw [if_neg (by omega), Nat.add_sub_cancel_left, BitVec.getLsbD_eq_getElem hi]

@[simp] theorem reqB_requestWord (a b : Word) : reqB (requestWord a b) = b := by
  ext i hi
  simp only [reqB, requestWord, BitVec.getElem_extractLsb', BitVec.getLsbD_append, Nat.zero_add]
  rw [if_pos hi, BitVec.getLsbD_eq_getElem hi]

/-- The decoder reads from a request word the operands it was made of. -/
@[simp] theorem decode_requestWord (a b : Word) : decode (requestWord a b) = .add a b := by
  simp [decode]

namespace Machine

/-- The bits of an assembled pattern (R42). -/
theorem assemble_getLsbD (s : Bool) (e : BitVec 8) (f : BitVec 23) (i : Nat) :
    (assemble s e f).getLsbD i =
      if i < 23 then f.getLsbD i else if i - 23 < 8 then e.getLsbD (i - 23) else (BitVec.ofBool s).getLsbD (i - 23 - 8) := by
  show BitVec.getLsbD (w := 1 + 8 + 23) (BitVec.ofBool s ++ e ++ f) i = _
  rw [BitVec.getLsbD_append, BitVec.getLsbD_append]

@[simp] theorem signOf_assemble (s : Bool) (e : BitVec 8) (f : BitVec 23) : signOf (assemble s e f) = s := by
  simp [signOf, assemble_getLsbD, -BitVec.getLsbD_eq_getElem]

@[simp] theorem expOf_assemble (s : Bool) (e : BitVec 8) (f : BitVec 23) : expOf (assemble s e f) = e := by
  apply BitVec.eq_of_getLsbD_eq
  intro i hi
  simp only [expOf, BitVec.getLsbD_extractLsb', assemble_getLsbD, hi, decide_true, Bool.true_and]
  rw [if_neg (by omega), if_pos (by omega), Nat.add_sub_cancel_left]

@[simp] theorem fracOf_assemble (s : Bool) (e : BitVec 8) (f : BitVec 23) : fracOf (assemble s e f) = f := by
  apply BitVec.eq_of_getLsbD_eq
  intro i hi
  simp only [fracOf, BitVec.getLsbD_extractLsb', assemble_getLsbD, hi, decide_true, Bool.true_and, Nat.zero_add, if_true]

/-- A pattern is its three fields and nothing else (R42). -/
@[simp] theorem assemble_fields (p : Word) : assemble (signOf p) (expOf p) (fracOf p) = p := by
  apply BitVec.eq_of_getLsbD_eq
  intro i hi
  rw [assemble_getLsbD]
  split
  · rename_i h
    simp only [fracOf, BitVec.getLsbD_extractLsb', h, decide_true, Bool.true_and, Nat.zero_add]
  · rename_i h
    split
    · rename_i h2
      simp only [expOf, BitVec.getLsbD_extractLsb', h2, decide_true, Bool.true_and]
      rw [show 23 + (i - 23) = i by omega]
    · have h5 : i = 31 := by omega
      subst h5
      simp only [signOf, BitVec.getLsbD_ofBool]
      simp

/-- Two patterns with the same fields are the same pattern. -/
theorem eq_of_fields (p q : Word) (hs : signOf p = signOf q) (he : expOf p = expOf q) (hf : fracOf p = fracOf q) : p = q := by
  rw [← assemble_fields p, ← assemble_fields q, hs, he, hf]

/-- The significand as a number: the implicit 1 at bit 23 (R46). -/
theorem significand_toNat (p : Word) : (significand p).toNat = 2 ^ 23 + (fracOf p).toNat := by
  have h : (fracOf p).toNat < 2 ^ 23 := (fracOf p).isLt
  simp only [significand, BitVec.toNat_append, BitVec.toNat_ofNat]
  rw [← Nat.shiftLeft_add_eq_or_of_lt h]
  rfl

/-- "value 2^23 .. 2^24-1" (R46). -/
theorem significand_bounds (p : Word) : 2 ^ 23 ≤ (significand p).toNat ∧ (significand p).toNat < 2 ^ 24 := by
  have h : (fracOf p).toNat < 2 ^ 23 := (fracOf p).isLt
  rw [significand_toNat]
  omega

/-- "value 0..255" (R46): the working exponent of an operand is its biased exponent, not widened by a sign. -/
theorem workExp_toNat (p : Word) : (workExp p).toNat = (expOf p).toNat := by
  have h : (expOf p).toNat < 256 := (expOf p).isLt
  simp only [workExp, BitVec.toNat_setWidth]
  omega

/-- The two zeros, and no other pattern (R45). -/
theorem isZero_iff (p : Word) : isZero p = true ↔ p = 0x00000000#32 ∨ p = 0x80000000#32 := by
  simp only [isZero, magnitudeBits, beq_iff_eq]
  constructor
  · intro h
    have hn : p.toNat % 2 ^ 31 = 0 := by
      have := congrArg BitVec.toNat h
      simpa [BitVec.extractLsb'_toNat] using this
    have hp : p.toNat < 2 ^ 32 := p.isLt
    rcases (by omega : p.toNat = 0 ∨ p.toNat = 2 ^ 31) with h0 | h0
    · left; exact BitVec.eq_of_toNat_eq h0
    · right; exact BitVec.eq_of_toNat_eq h0
  · rintro (rfl | rfl) <;> rfl

end Machine

end Sys2Proof
end

