-- ==== Sys2Proof/Laws/State.lean ====
section
/-! SUPPORT. What each operation on the registers does to each field, by definition; and what the choices and the outputs
read of an updated state. -/

namespace Sys2Proof.Machine

@[simp] theorem State.resetEdge_busy (s : State) : s.resetEdge.busy = false := rfl
@[simp] theorem State.resetEdge_outValid (s : State) : s.resetEdge.outValid = false := rfl
@[simp] theorem State.resetEdge_res (s : State) : s.resetEdge.res = 0x00000000#32 := rfl
@[simp] theorem State.resetEdge_opa (s : State) : s.resetEdge.opa = 0x00000000#32 := rfl
@[simp] theorem State.resetEdge_opb (s : State) : s.resetEdge.opb = 0x00000000#32 := rfl
@[simp] theorem State.resetEdge_timer (s : State) : s.resetEdge.timer = 0 := rfl
@[simp] theorem State.resetEdge_resetSeen (s : State) : s.resetEdge.resetSeen = true := rfl
@[simp] theorem State.resetEdge_events (s : State) : s.resetEdge.events = s.events := rfl
@[simp] theorem State.resetEdge_doneDraws (s : State) : s.resetEdge.doneDraws = s.doneDraws := rfl
@[simp] theorem State.resetEdge_draws (s : State) : s.resetEdge.draws = s.draws := rfl

@[simp] theorem State.accept_busy (s : State) (a b : Word) : (s.accept a b).busy = true := rfl
@[simp] theorem State.accept_outValid (s : State) (a b : Word) : (s.accept a b).outValid = false := rfl
@[simp] theorem State.accept_res (s : State) (a b : Word) : (s.accept a b).res = s.res := rfl
@[simp] theorem State.accept_opa (s : State) (a b : Word) : (s.accept a b).opa = a := rfl
@[simp] theorem State.accept_opb (s : State) (a b : Word) : (s.accept a b).opb = b := rfl
@[simp] theorem State.accept_timer (s : State) (a b : Word) : (s.accept a b).timer = Config.latMax := rfl
@[simp] theorem State.accept_resetSeen (s : State) (a b : Word) : (s.accept a b).resetSeen = s.resetSeen := rfl
@[simp] theorem State.accept_events (s : State) (a b : Word) : (s.accept a b).events = s.events := rfl
@[simp] theorem State.accept_doneDraws (s : State) (a b : Word) : (s.accept a b).doneDraws = s.doneDraws := rfl
@[simp] theorem State.accept_draws (s : State) (a b : Word) : (s.accept a b).draws = s.draws := rfl

@[simp] theorem State.complete_busy (s : State) (r : Word) : (s.complete r).busy = false := rfl
@[simp] theorem State.complete_outValid (s : State) (r : Word) : (s.complete r).outValid = true := rfl
@[simp] theorem State.complete_res (s : State) (r : Word) : (s.complete r).res = r := rfl
@[simp] theorem State.complete_opa (s : State) (r : Word) : (s.complete r).opa = s.opa := rfl
@[simp] theorem State.complete_opb (s : State) (r : Word) : (s.complete r).opb = s.opb := rfl
@[simp] theorem State.complete_timer (s : State) (r : Word) : (s.complete r).timer = s.timer := rfl
@[simp] theorem State.complete_resetSeen (s : State) (r : Word) : (s.complete r).resetSeen = s.resetSeen := rfl
@[simp] theorem State.complete_events (s : State) (r : Word) : (s.complete r).events = s.events := rfl
@[simp] theorem State.complete_doneDraws (s : State) (r : Word) : (s.complete r).doneDraws = s.doneDraws := rfl
@[simp] theorem State.complete_draws (s : State) (r : Word) : (s.complete r).draws = s.draws := rfl

@[simp] theorem State.dropDraw_busy (s : State) : s.dropDraw.busy = s.busy := rfl
@[simp] theorem State.dropDraw_outValid (s : State) : s.dropDraw.outValid = s.outValid := rfl
@[simp] theorem State.dropDraw_res (s : State) : s.dropDraw.res = s.res := rfl
@[simp] theorem State.dropDraw_opa (s : State) : s.dropDraw.opa = s.opa := rfl
@[simp] theorem State.dropDraw_opb (s : State) : s.dropDraw.opb = s.opb := rfl
@[simp] theorem State.dropDraw_timer (s : State) : s.dropDraw.timer = s.timer := rfl
@[simp] theorem State.dropDraw_resetSeen (s : State) : s.dropDraw.resetSeen = s.resetSeen := rfl
@[simp] theorem State.dropDraw_events (s : State) : s.dropDraw.events = s.events := rfl
@[simp] theorem State.dropDraw_doneDraws (s : State) : s.dropDraw.doneDraws = s.doneDraws.tail := rfl
@[simp] theorem State.dropDraw_draws (s : State) : s.dropDraw.draws = s.draws + 1 := rfl

@[simp] theorem State.wait_busy (s : State) : s.wait.busy = s.busy := rfl
@[simp] theorem State.wait_outValid (s : State) : s.wait.outValid = s.outValid := rfl
@[simp] theorem State.wait_res (s : State) : s.wait.res = s.res := rfl
@[simp] theorem State.wait_opa (s : State) : s.wait.opa = s.opa := rfl
@[simp] theorem State.wait_opb (s : State) : s.wait.opb = s.opb := rfl
@[simp] theorem State.wait_timer (s : State) : s.wait.timer = s.timer - 1 := rfl
@[simp] theorem State.wait_resetSeen (s : State) : s.wait.resetSeen = s.resetSeen := rfl
@[simp] theorem State.wait_events (s : State) : s.wait.events = s.events := rfl
@[simp] theorem State.wait_doneDraws (s : State) : s.wait.doneDraws = s.doneDraws := rfl
@[simp] theorem State.wait_draws (s : State) : s.wait.draws = s.draws := rfl

@[simp] theorem State.unspecified_busy (s : State) : s.unspecified.busy = Config.powerUpBusy s.draws := rfl
@[simp] theorem State.unspecified_outValid (s : State) : s.unspecified.outValid = Config.powerUpOutValid s.draws := rfl
@[simp] theorem State.unspecified_res (s : State) : s.unspecified.res = Config.powerUpRes s.draws := rfl
@[simp] theorem State.unspecified_opa (s : State) : s.unspecified.opa = Config.powerUpOpa s.draws := rfl
@[simp] theorem State.unspecified_opb (s : State) : s.unspecified.opb = Config.powerUpOpb s.draws := rfl
@[simp] theorem State.unspecified_timer (s : State) : s.unspecified.timer = Config.powerUpTimer s.draws := rfl
@[simp] theorem State.unspecified_resetSeen (s : State) : s.unspecified.resetSeen = false := rfl
@[simp] theorem State.unspecified_events (s : State) : s.unspecified.events = s.events := rfl
@[simp] theorem State.unspecified_doneDraws (s : State) : s.unspecified.doneDraws = s.doneDraws := rfl
@[simp] theorem State.unspecified_draws (s : State) : s.unspecified.draws = s.draws + 1 := rfl

@[simp] theorem State.dropEvent_busy (s : State) : s.dropEvent.busy = s.busy := rfl
@[simp] theorem State.dropEvent_outValid (s : State) : s.dropEvent.outValid = s.outValid := rfl
@[simp] theorem State.dropEvent_res (s : State) : s.dropEvent.res = s.res := rfl
@[simp] theorem State.dropEvent_opa (s : State) : s.dropEvent.opa = s.opa := rfl
@[simp] theorem State.dropEvent_opb (s : State) : s.dropEvent.opb = s.opb := rfl
@[simp] theorem State.dropEvent_timer (s : State) : s.dropEvent.timer = s.timer := rfl
@[simp] theorem State.dropEvent_resetSeen (s : State) : s.dropEvent.resetSeen = s.resetSeen := rfl
@[simp] theorem State.dropEvent_events (s : State) : s.dropEvent.events = s.events.tail := rfl
@[simp] theorem State.dropEvent_doneDraws (s : State) : s.dropEvent.doneDraws = s.doneDraws := rfl
@[simp] theorem State.dropEvent_draws (s : State) : s.dropEvent.draws = s.draws := rfl

@[simp] theorem State.loadRequest_busy (s : State) (a b : Word) : (s.loadRequest a b).busy = true := rfl
@[simp] theorem State.loadRequest_outValid (s : State) (a b : Word) : (s.loadRequest a b).outValid = false := rfl
@[simp] theorem State.loadRequest_res (s : State) (a b : Word) : (s.loadRequest a b).res = s.res := rfl
@[simp] theorem State.loadRequest_opa (s : State) (a b : Word) : (s.loadRequest a b).opa = a := rfl
@[simp] theorem State.loadRequest_opb (s : State) (a b : Word) : (s.loadRequest a b).opb = b := rfl
@[simp] theorem State.loadRequest_timer (s : State) (a b : Word) : (s.loadRequest a b).timer = 1 := rfl
@[simp] theorem State.loadRequest_resetSeen (s : State) (a b : Word) : (s.loadRequest a b).resetSeen = s.resetSeen := rfl
@[simp] theorem State.loadRequest_events (s : State) (a b : Word) : (s.loadRequest a b).events = .edge Ports.idle :: s.events := rfl
@[simp] theorem State.loadRequest_doneDraws (s : State) (a b : Word) : (s.loadRequest a b).doneDraws = s.doneDraws := rfl
@[simp] theorem State.loadRequest_draws (s : State) (a b : Word) : (s.loadRequest a b).draws = s.draws := rfl

@[simp] theorem State.reset_busy : State.reset.busy = false := rfl
@[simp] theorem State.reset_outValid : State.reset.outValid = false := rfl
@[simp] theorem State.reset_res : State.reset.res = 0x00000000#32 := rfl
@[simp] theorem State.reset_opa : State.reset.opa = 0x00000000#32 := rfl
@[simp] theorem State.reset_opb : State.reset.opb = 0x00000000#32 := rfl
@[simp] theorem State.reset_timer : State.reset.timer = 0 := rfl
@[simp] theorem State.reset_resetSeen : State.reset.resetSeen = true := rfl
@[simp] theorem State.reset_events : State.reset.events = [] := rfl
@[simp] theorem State.reset_doneDraws : State.reset.doneDraws = [] := rfl
@[simp] theorem State.reset_draws : State.reset.draws = 0 := rfl

@[simp] theorem State.dropEvent_draw (s : State) : s.dropEvent.draw = s.draw := rfl
@[simp] theorem State.dropEvent_done (s : State) : s.dropEvent.done = s.done := rfl
@[simp] theorem State.dropEvent_request (s : State) : s.dropEvent.request = s.request := rfl

theorem State.nextEvent_cons (s : State) (ev : Event) (rest : List Event) (h : s.events = ev :: rest) : s.nextEvent = ev := by
  simp [State.nextEvent, h]

theorem State.nextEvent_nil (s : State) (h : s.events = []) : s.nextEvent = .edge Ports.idle := by
  simp [State.nextEvent, h]

/-- The choice is forced at the last edge allowed (R23). -/
theorem State.done_of_timer_le_one (s : State) (h : s.timer ≤ 1) : s.done = true := by
  simp [State.done, h]

/-- An edge that does not complete has at least one more edge left. -/
theorem State.one_lt_timer_of_not_done (s : State) (h : s.done = false) : 1 < s.timer := by
  simp only [State.done, Bool.or_eq_false_iff, decide_eq_false_iff_not] at h
  omega

end Sys2Proof.Machine
end

