-- ==== Sys2Proof/Laws/Edge.lean ====
section
/-! SUPPORT. What a clock edge can do, said once. -/

namespace Sys2Proof.Machine

@[simp] theorem exec_add (a b : Word) (s : State) : exec (.add a b) s = .next (s.complete (fpAdd a b)) := rfl

/-- The completion edge runs the request in flight on its two captured operands. -/
@[simp] theorem exec_request (s t : State) : exec (decode t.request) s = .next (s.complete (fpAdd t.opa t.opb)) := by
  simp [State.request]

/-- What an edge with a request in flight answers. -/
theorem busyEdge_eq (s : State) :
    busyEdge s = .next (if s.done then s.dropDraw.complete (fpAdd s.opa s.opb) else s.dropDraw.wait) := by
  unfold busyEdge
  split <;> simp

/-- The completion edge (R59). -/
theorem busyEdge_of_done {s : State} (h : s.done = true) :
    busyEdge s = .next (s.dropDraw.complete (fpAdd s.opa s.opb)) := by
  rw [busyEdge_eq, if_pos h]

/-- One more edge in flight (R59). -/
theorem busyEdge_of_not_done {s : State} (h : s.done = false) : busyEdge s = .next s.dropDraw.wait := by
  rw [busyEdge_eq, if_neg (by simp [h])]

/-- An edge with BUSY = 1, no reset and `in_valid` driven is a busy edge, whatever else is on the ports (R124). -/
theorem clockEdge_of_busy {p : Ports} {s : State} (hr : p.rst = .low) (hv : p.inValid ≠ .undriven) (hb : s.busy = true) :
    clockEdge p s = busyEdge s := by
  obtain ⟨rst, iv, ia, ib⟩ := p
  cases iv <;> simp_all [clockEdge]

/-- An accepting edge with driven operands (R59). -/
theorem clockEdge_of_accepting {p : Ports} {s : State} {a b : Word} (hr : p.rst = .low) (hv : p.inValid = .high)
    (ha : p.inA = some a) (hb : p.inB = some b) (hs : s.busy = false) : clockEdge p s = .next (s.accept a b) := by
  simp [clockEdge, acceptingEdge, hr, hv, ha, hb, hs]

/-- A reset edge at which R126 is kept (R119). -/
theorem clockEdge_of_reset {p : Ports} {s : State} (hr : p.rst = .high) (hv : s.resetSeen = true → p.inValid ≠ .undriven) :
    clockEdge p s = .next s.resetEdge := by
  simp only [clockEdge, hr]
  rw [if_neg (fun h => hv h.2 h.1)]

/-- Everything a clock edge with an answer can do: reset, accept, one edge of a request in flight, nothing, or, before the
first reset and with a control port undriven, a free draw. -/
theorem clockEdge_cases {p : Ports} {s t : State} (h : clockEdge p s = .next t) :
    (p.rst = .high ∧ t = s.resetEdge) ∨
    (p.rst = .low ∧ p.inValid = .high ∧ s.busy = false ∧ ∃ a b, p.inA = some a ∧ p.inB = some b ∧ t = s.accept a b) ∨
    (p.rst = .low ∧ p.inValid ≠ .undriven ∧ s.busy = true ∧ s.done = true ∧
      t = s.dropDraw.complete (fpAdd s.opa s.opb)) ∨
    (p.rst = .low ∧ p.inValid ≠ .undriven ∧ s.busy = true ∧ s.done = false ∧ t = s.dropDraw.wait) ∨
    (p.rst = .low ∧ p.inValid = .low ∧ s.busy = false ∧ t = s) ∨
    ((p.rst = .undriven ∨ p.rst = .low ∧ p.inValid = .undriven) ∧ s.resetSeen = false ∧ t = s.unspecified) := by
  obtain ⟨rst, iv, ia, ib⟩ := p
  cases rst <;> cases iv <;> simp only [clockEdge, undrivenEdge, busyEdge_eq, acceptingEdge] at h <;>
    (try split at h) <;> (try split at h) <;> simp_all

/-- Everything a step with an answer can do. -/
theorem step_cases {s t : State} (h : step s = .next t) :
    (s.nextEvent = .powerLoss ∧ t = s.dropEvent.unspecified) ∨
    (∃ p, s.nextEvent = .edge p ∧ clockEdge p s.dropEvent = .next t) := by
  unfold step handleEvent at h
  split at h
  · rename_i p hp
    exact Or.inr ⟨p, hp, h⟩
  · rename_i hp
    left
    exact ⟨hp, by simpa using h.symm⟩

/-- A step on a known event. -/
theorem step_of_nextEvent {s : State} {ev : Event} (h : s.nextEvent = ev) : step s = handleEvent ev s.dropEvent := by
  simp [step, h]

/-- A step on the state with one more edge put before its events is that clock edge on the state. -/
theorem step_of_pushed_edge (p : Ports) (s : State) :
    step { s with events := .edge p :: s.events } = clockEdge p s := rfl

@[simp] theorem handleEvent_edge (p : Ports) (s : State) : handleEvent (.edge p) s = clockEdge p s := rfl

@[simp] theorem handleEvent_powerLoss (s : State) : handleEvent .powerLoss s = .next s.unspecified := rfl

@[simp] theorem run_zero (s : State) : run 0 s = .next s := rfl

/-- A run begins with a step. -/
theorem run_of_step {s t : State} (n : Nat) (h : step s = .next t) : run (n + 1) s = run n t := by
  simp only [run, h]

/-- A run ends with a step. -/
theorem run_last {n : Nat} : ∀ {s t : State}, run (n + 1) s = .next t → ∃ u, run n s = .next u ∧ step u = .next t := by
  induction n with
  | zero =>
    intro s t h
    refine ⟨s, rfl, ?_⟩
    unfold run at h
    split at h <;> simp_all
  | succ n ih =>
    intro s t h
    cases hs : step s with
    | next s' =>
      rw [run_of_step _ hs] at h
      obtain ⟨u, hu, ht⟩ := ih h
      exact ⟨u, by rw [run_of_step _ hs, hu], ht⟩
    | fault r => cases r
    | refused r => simp [run, hs] at h

/-- What every step keeps, every run keeps. -/
theorem run_keeps {P : State → Prop} (hstep : ∀ s t, P s → step s = .next t → P t) {n : Nat} :
    ∀ {s t : State}, P s → run n s = .next t → P t := by
  induction n with
  | zero =>
    intro s t hs h
    cases h
    exact hs
  | succ n ih =>
    intro s t hs h
    obtain ⟨u, hu, ht⟩ := run_last h
    exact hstep u t (ih hs hu) ht

end Sys2Proof.Machine
end

