-- ==== Sys2Proof/Laws/PerInstr.lean ====
section
/-! SUPPORT. Statements about every operation as syntax, one lemma per constructor. -/

namespace Sys2Proof.Laws.RequestHalves

/-- The upper half of an operation's request word is its first operand and the lower half its second (R48). -/
def Statement : Instr → Prop
  | .add a b => reqA (encode (.add a b)) = a ∧ reqB (encode (.add a b)) = b

theorem add (a b : Word) : Statement (.add a b) := ⟨reqA_requestWord a b, reqB_requestWord a b⟩

end Sys2Proof.Laws.RequestHalves
end

