-- ==== Sys2Proof/Laws/Units.lean ====
section
/-! SUPPORT. What one turn of each loop of the sub-units does, and what the select half answers in each case. -/

namespace Sys2Proof.Machine

section Align

@[simp] theorem AlignRegs.shiftA_ea (r : AlignRegs) : r.shiftA.ea = r.ea + 1#10 := rfl
@[simp] theorem AlignRegs.shiftA_eb (r : AlignRegs) : r.shiftA.eb = r.eb := rfl
@[simp] theorem AlignRegs.shiftA_ma (r : AlignRegs) : r.shiftA.ma = r.ma >>> 1 := rfl
@[simp] theorem AlignRegs.shiftA_mb (r : AlignRegs) : r.shiftA.mb = r.mb := rfl
@[simp] theorem AlignRegs.shiftB_ea (r : AlignRegs) : r.shiftB.ea = r.ea := rfl
@[simp] theorem AlignRegs.shiftB_eb (r : AlignRegs) : r.shiftB.eb = r.eb + 1#10 := rfl
@[simp] theorem AlignRegs.shiftB_ma (r : AlignRegs) : r.shiftB.ma = r.ma := rfl
@[simp] theorem AlignRegs.shiftB_mb (r : AlignRegs) : r.shiftB.mb = r.mb >>> 1 := rfl

@[simp] theorem unpack_ea (a b : Word) : (unpack a b).ea = workExp a := rfl
@[simp] theorem unpack_eb (a b : Word) : (unpack a b).eb = workExp b := rfl
@[simp] theorem unpack_ma (a b : Word) : (unpack a b).ma = significand a := rfl
@[simp] theorem unpack_mb (a b : Word) : (unpack a b).mb = significand b := rfl

@[simp] theorem alignLoop_zero (k : Nat) (r : AlignRegs) : alignLoop 0 k r = ⟨.aligned, r, k⟩ := rfl

/-- Equal exponents end the loop (R81). -/
theorem alignLoop_equal (fuel k : Nat) (r : AlignRegs) (h : r.ea = r.eb) : alignLoop fuel k r = ⟨.aligned, r, k⟩ := by
  cases fuel <;> simp [alignLoop, h]

/-- The turn that shifts operand a and goes on (R81). -/
theorem alignLoop_shiftA (fuel k : Nat) (r : AlignRegs) (h : r.ea.ult r.eb = true) (hm : r.ma >>> 1 ≠ 0#24) :
    alignLoop (fuel + 1) k r = alignLoop fuel (k + 1) r.shiftA := by
  have hne : r.ea ≠ r.eb := by
    intro he
    simp [he, BitVec.ult] at h
  simp [alignLoop, hne, h, hm]

/-- The turn that shifts operand b and goes on (R81). -/
theorem alignLoop_shiftB (fuel k : Nat) (r : AlignRegs) (hne : r.ea ≠ r.eb) (h : r.ea.ult r.eb = false)
    (hm : r.mb >>> 1 ≠ 0#24) : alignLoop (fuel + 1) k r = alignLoop fuel (k + 1) r.shiftB := by
  simp [alignLoop, hne, h, hm]

/-- The turn at which operand a is found negligible (R82). -/
theorem alignLoop_neglA (fuel k : Nat) (r : AlignRegs) (h : r.ea.ult r.eb = true) (hm : r.ma >>> 1 = 0#24) :
    alignLoop (fuel + 1) k r = ⟨.neglA, r.shiftA, k + 1⟩ := by
  have hne : r.ea ≠ r.eb := by
    intro he
    simp [he, BitVec.ult] at h
  simp [alignLoop, hne, h, hm]

/-- The turn at which operand b is found negligible (R82). -/
theorem alignLoop_neglB (fuel k : Nat) (r : AlignRegs) (hne : r.ea ≠ r.eb) (h : r.ea.ult r.eb = false)
    (hm : r.mb >>> 1 = 0#24) : alignLoop (fuel + 1) k r = ⟨.neglB, r.shiftB, k + 1⟩ := by
  simp [alignLoop, hne, h, hm]

/-- The signs pass through the unit, whatever the tag (R80). -/
@[simp] theorem eau_sa (a b : Word) : (eau a b).sa = signOf a := by
  unfold eau; split <;> rfl

@[simp] theorem eau_sb (a b : Word) : (eau a b).sb = signOf b := by
  unfold eau; split <;> rfl

@[simp] theorem eau_tagAl (a b : Word) : (eau a b).tagAl = (alignRun a b).tag := by
  unfold eau; split <;> simp_all

/-- The outputs that are read only under ALIGNED (R79). -/
theorem eau_aligned (a b : Word) (h : (alignRun a b).tag = .aligned) :
    eau a b = ⟨.aligned, (alignRun a b).regs.ea, (alignRun a b).regs.ma, (alignRun a b).regs.mb, signOf a, signOf b⟩ := by
  unfold eau; rw [h]

end Align

section Normalize

/-- A leading 1 at bit 23 ends the loop (R99). -/
theorem normLoop_done (fuel k : Nat) (m : Mag25) (e : Exp10) (h : m.getLsbD 23 = true) :
    normLoop (fuel + 1) k m e = ⟨m, e, false, k⟩ := by
  simp [normLoop, h]

/-- The turn that shifts and goes on (R99). -/
theorem normLoop_shift (fuel k : Nat) (m : Mag25) (e : Exp10) (h : m.getLsbD 23 = false)
    (he : (e - 1#10).sle 0#10 = false) : normLoop (fuel + 1) k m e = normLoop fuel (k + 1) (m <<< 1) (e - 1#10) := by
  simp only [normLoop, h, he, Bool.false_eq_true, if_false]

/-- The turn at which the exponent has reached 0 or less (R100). -/
theorem normLoop_underflow (fuel k : Nat) (m : Mag25) (e : Exp10) (h : m.getLsbD 23 = false)
    (he : (e - 1#10).sle 0#10 = true) : normLoop (fuel + 1) k m e = ⟨m <<< 1, e - 1#10, true, k + 1⟩ := by
  simp only [normLoop, h, he, Bool.false_eq_true, if_false, if_true]

@[simp] theorem nuNormalize_ovf (rs : Bool) (m : Mag25) (e : Exp10) : (nuNormalize rs m e).ovf = false := by
  unfold nuNormalize; split <;> rfl

@[simp] theorem nuNormalize_unf (rs : Bool) (m : Mag25) (e : Exp10) : (nuNormalize rs m e).unf = (normRun m e).unf := by
  unfold nuNormalize; split <;> simp_all

theorem nuNormalize_nres (rs : Bool) (m : Mag25) (e : Exp10) (h : (normRun m e).unf = false) :
    (nuNormalize rs m e).nres = assembleResult rs (normRun m e).e (normRun m e).m := by
  simp [nuNormalize, h]

end Normalize

section Select

theorem schSelect_zeroA (a b : Word) (zb : Bool) (t : AlignTag) (z o u rs : Bool) (n : Word) :
    schSelect a b true zb t z o u rs n = ⟨b, .zeroA⟩ := rfl

theorem schSelect_zeroB (a b : Word) (t : AlignTag) (z o u rs : Bool) (n : Word) :
    schSelect a b false true t z o u rs n = ⟨a, .zeroB⟩ := rfl

theorem schSelect_neglA (a b : Word) (z o u rs : Bool) (n : Word) :
    schSelect a b false false .neglA z o u rs n = ⟨b, .neglA⟩ := rfl

theorem schSelect_neglB (a b : Word) (z o u rs : Bool) (n : Word) :
    schSelect a b false false .neglB z o u rs n = ⟨a, .neglB⟩ := rfl

theorem schSelect_zeroSum (a b : Word) (o u rs : Bool) (n : Word) :
    schSelect a b false false .aligned true o u rs n = ⟨zeroPattern, .zeroSum⟩ := rfl

theorem schSelect_overflow (a b : Word) (u rs : Bool) (n : Word) :
    schSelect a b false false .aligned false true u rs n = ⟨infPattern rs, .overflow⟩ := rfl

theorem schSelect_underflow (a b : Word) (rs : Bool) (n : Word) :
    schSelect a b false false .aligned false false true rs n = ⟨zeroPattern, .underflow⟩ := rfl

theorem schSelect_normal (a b : Word) (rs : Bool) (n : Word) :
    schSelect a b false false .aligned false false false rs n = ⟨n, .normal⟩ := rfl

end Select

end Sys2Proof.Machine
end

