-- ==== Sys2Proof/Tests/Slice0.lean ====
section
/-! SUPPORT. Tests, whose expected values stand in the spec (the docstrings name the tables), and for every obligation with
hypotheses a theorem that something meets them all. -/

namespace Sys2Proof.Tests

open Sys2Proof Sys2Proof.Machine

/-! ### Well-formedness -/

/-- R53: `count ::= decimal integer >= 1`. -/
theorem test_wf_refuses_idle_zero : (HarnessStmt.idle 0).wf = false ∧ (HarnessStmt.idle 1).wf = true := by decide

theorem test_wf_refuses_repeat_zero :
    (HarnessProgram.rep 0 .nil .nil).wf = false ∧ (HarnessProgram.rep 1 (.cons (.idle 0) .nil) .nil).wf = false ∧
      (HarnessProgram.rep 1 (.cons .wait .nil) .nil).wf = true := by decide

/-- R51: no request is ill-formed; there is no ill-formed `Instr` to show. -/
theorem test_wf_accepts_nan_request : (Instr.add 0x7FC00000#32 0xFFFFFFFF#32).wf = true := by decide

/-! ### Decoding, from the spec's encoding of the request word (R48, R50, R55) -/

/-- R55: "`ADD 0x3F800000, 0x40000000` encodes as `0x3F80000040000000`". -/
theorem test_decode_add : decode 0x3F80000040000000#64 = .add 0x3F800000#32 0x40000000#32 := by decide

/-- Program P2, request 1 (95_test_vectors.md): a in the upper half. -/
theorem test_decode_table_word : decodeTableWord 64 0x000000003DCCCCCD = some (.add 0x00000000#32 0x3DCCCCCD#32) := by decide

/-- Bit 63 is the sign of a, bit 31 the sign of b (R48, R42). -/
theorem test_decode_sign_bits :
    decode (BitVec.ofNat 64 (2 ^ 63)) = .add 0x80000000#32 0#32 ∧ decode (BitVec.ofNat 64 (2 ^ 31)) = .add 0#32 0x80000000#32 := by
  decide

/-- R52: a request is always 64 bits. -/
theorem test_decode_refuses_other_widths :
    decodeBits 72 0 = .error .wrongWidth ∧ decodeBits 56 0 = .error .wrongWidth ∧ decodeBits 0 0 = .error .wrongWidth ∧
      decodeBits 64 (2 ^ 64) = .error .tooLarge := ⟨rfl, rfl, rfl, rfl⟩

/-! ### One step -/

/-- Some field of the next state. -/
def nextField {α : Type} (f : State → α) : Host.Outcome State Fault Refusal → Option α
  | .next s => some (f s)
  | .fault _ => none
  | .refused _ => none

/-- A state with the request 1.0 + 2.0 in flight, and this timer and these choices. -/
def inFlight (timer : Nat) (choices : List Bool) (events : List Event) : State :=
  { State.reset with busy := true, opa := 0x3F800000#32, opb := 0x40000000#32, timer := timer, doneDraws := choices,
                     events := events }

/-- V-PORT row 5: the completion edge. -/
theorem test_add_completes :
    nextField (fun t => (t.busy, t.outValid, t.res, t.opa, t.opb)) (step (inFlight 1 [] [.edge Ports.idle])) =
      some (false, true, 0x40400000#32, 0x3F800000#32, 0x40000000#32) := by decide

/-- V-PORT row 7: the accepting edge keeps RES and clears OUT_VALID. -/
theorem test_add_accepts :
    nextField (fun t => (t.busy, t.outValid, t.res, t.opa, t.opb))
      (step { State.reset with outValid := true, res := 0x40400000#32,
                               events := [.edge (Ports.offering 0x7F7FFFFF#32 0x7F7FFFFF#32)] }) =
      some (true, false, 0x40400000#32, 0x7F7FFFFF#32, 0x7F7FFFFF#32) := by decide

/-- V-PORT row 4: an offer at an edge in flight is not accepted. -/
theorem test_offer_while_busy :
    nextField (fun t => (t.busy, t.outValid, t.res, t.opa, t.opb))
      (step (inFlight 2 [false] [.edge (Ports.offering 0x11111111#32 0x22222222#32)])) =
      some (true, false, 0x00000000#32, 0x3F800000#32, 0x40000000#32) := by decide

/-- V-PORT row 8: reset wins over completion. -/
theorem test_reset_wins :
    nextField (fun t => (t.busy, t.outValid, t.res, t.opa, t.opb))
      (step (inFlight 1 [true] [.edge ⟨.high, .high, some 0x3F800000#32, some 0x3F800000#32⟩])) =
      some (false, false, 0x00000000#32, 0x00000000#32, 0x00000000#32) := by decide

/-- The word of program P3, request 1, placed by the host's `withFetchWord`, runs right after reset: OVERFLOW. -/
theorem test_placed_word_runs :
    nextField (fun t => (t.outValid, t.res)) (step (State.reset.withFetchWord 64 0x7F7FFFFF7F7FFFFF)) =
      some (true, 0x7F800000#32) := by decide

/-! ### The sub-units, from the tables of the spec -/

/-- V-EAU rows 5, 8, 13 and 14. -/
theorem test_eau :
    ((eau 0x3F800000 0x34400000).tagAl, (eau 0x3F800000 0x34400000).mb) = (.aligned, 0x000001#24) ∧
    (eau 0x3F800000 0x33FFFFFF).tagAl = .neglB ∧ alignIterations 0x3F800000 0x33FFFFFF = 24 ∧
    (eau 0x00400000 0x3F800000).tagAl = .neglA ∧
    ((eau 0x00400000 0x00800000).e, (eau 0x00400000 0x00800000).ma, (eau 0x00400000 0x00800000).mb) =
      (1#10, 0x600000#24, 0x800000#24) := by decide

/-- V-MAT rows 3, 4, 8 and 11. -/
theorem test_mat :
    signedSum true false 0xC00000 0x200000 = 0x7600000#27 ∧ mat true false 0xC00000 0x200000 = ⟨true, 0x0A00000#25, false⟩ ∧
    mat true true 0x800000 0xC00000 = ⟨true, 0x1400000#25, false⟩ ∧ signedSum true true 0xFFFFFF 0xFFFFFF = 0x6000002#27 ∧
    mat false true 0x000001 0x800000 = ⟨true, 0x07FFFFF#25, false⟩ := by decide

/-- R106, the rows that carry, overflow, shift 23 places, and underflow at the last and at the first decrement. -/
theorem test_nu :
    nu false 0x1000001 127 = ⟨false, false, 0x40000000⟩ ∧ (nu true 0x1FFFFFE 254).ovf = true ∧
    nu false 0x1000000 253 = ⟨false, false, 0x7F000000⟩ ∧ nu false 0x0000001 24 = ⟨false, false, 0x00800000⟩ ∧
    (nu false 0x0000001 23).unf = true ∧ (nu false 0x0000002 0).unf = true ∧
    nu true 0x0400000 128 = ⟨false, false, 0xBF800000⟩ ∧ nu false 0x0E00000 255 = ⟨false, false, 0x7FE00000⟩ := by decide

/-- V-SPECIAL rows 2, 4, 5, 7 and V-UNF rows 2 and 3, with their tags. -/
theorem test_fp_add_tags :
    (fpAdd 0x7F800000 0xFF800000, outcomeTag 0x7F800000 0xFF800000) = (0x00000000, .zeroSum) ∧
    (fpAdd 0x7F800000 0x7F400000, outcomeTag 0x7F800000 0x7F400000) = (0x7FE00000, .normal) ∧
    (fpAdd 0x7F800000 0xFF400000, outcomeTag 0x7F800000 0xFF400000) = (0x7E800000, .normal) ∧
    (fpAdd 0x7FC00000 0x7FC00000, outcomeTag 0x7FC00000 0x7FC00000) = (0x7F800000, .overflow) ∧
    (fpAdd 0x0B800001 0x8B800000, outcomeTag 0x0B800001 0x8B800000) = (0x00000000, .underflow) ∧
    (fpAdd 0x0C000001 0x8C000000, outcomeTag 0x0C000001 0x8C000000) = (0x00800000, .normal) := by decide

/-! ### Witnesses: every hypothesis of an obligation is met by something -/

theorem witness_requestWordHoldsOperands : (0 : Nat) < 32 ∧ (31 : Nat) < 32 := by decide

theorem witness_tableWordsAndEncoderAgree : (Instr.add 0#32 0#32).wf = true ∧ 2 ^ 64 - 1 < 2 ^ 64 ∧
    (63 ≠ 64 ∨ 2 ^ 64 ≤ 0) ∧ (65 ≠ 64 ∨ 2 ^ 64 ≤ 0) ∧ (64 ≠ 64 ∨ 2 ^ 64 ≤ 2 ^ 64) := by decide

theorem witness_addWritesTheSum : State.reset.resetSeen = true := rfl

theorem witness_addLeavesTheRestAlone :
    State.reset.resetSeen = true ∧ ∃ t, exec (.add 0x3F800000#32 0x40000000#32) State.reset = .next t := ⟨rfl, _, rfl⟩

theorem inFlight_completesNext : (inFlight 1 [] [.edge Ports.idle]).completesNext :=
  ⟨Ports.idle, rfl, rfl, by decide, rfl, rfl⟩

theorem witness_stepRunsTheDecodedRequest : ∃ s : State, s.resetSeen = true ∧ s.completesNext :=
  ⟨_, rfl, inFlight_completesNext⟩

theorem witness_placedWordRunsNext : State.reset.resetSeen = true := rfl

theorem witness_clockEdge_reset : Ports.resetting.rst = .high ∧ Ports.resetting.inValid ≠ .undriven := by decide

theorem witness_clockEdge_accept :
    State.reset.resetSeen = true ∧ (Ports.offering 1#32 2#32).rst = .low ∧ (Ports.offering 1#32 2#32).inValid = .high ∧ State.reset.busy = false ∧
      (Ports.offering 1#32 2#32).inA = some 1#32 ∧ (Ports.offering 1#32 2#32).inB = some 2#32 := by decide

theorem witness_clockEdge_complete :
    (inFlight 2 [true] []).resetSeen = true ∧ Ports.idle.rst = .low ∧ Ports.idle.inValid ≠ .undriven ∧ (inFlight 2 [true] []).busy = true ∧
      (inFlight 2 [true] []).done = true := by decide

theorem witness_clockEdge_wait :
    (inFlight 2 [false] []).resetSeen = true ∧ Ports.idle.rst = .low ∧ Ports.idle.inValid ≠ .undriven ∧ (inFlight 2 [false] []).busy = true ∧
      (inFlight 2 [false] []).done = false := by decide

theorem witness_clockEdge_idle :
    State.reset.resetSeen = true ∧ Ports.idle.rst = .low ∧ Ports.idle.inValid = .low ∧ State.reset.busy = false := by decide

theorem witness_clockEdge_done :
    (inFlight 1 [false] []).resetSeen = true ∧ (inFlight 2 [false] []).resetSeen = true ∧
    (inFlight 1 [false] []).timer ≤ 1 ∧ 1 < (inFlight 2 [false] []).timer ∧ (inFlight 2 [false] []).doneDraws = [false] := by
  decide

/-- Before the first reset edge `in_valid` may be undriven; after it, it is driven. -/
theorem witness_resetEdgeWinsFromAnyState :
    (∃ (s : State) (p : Ports), s.nextEvent = .edge p ∧ p.rst = .high ∧ s.resetSeen = false ∧ p.inValid = .undriven ∧
      (s.resetSeen = true → p.inValid ≠ .undriven)) ∧
    (∃ (s : State) (p : Ports), s.nextEvent = .edge p ∧ p.rst = .high ∧ s.resetSeen = true ∧
      (s.resetSeen = true → p.inValid ≠ .undriven)) :=
  ⟨⟨{ inFlight 1 [] [.edge ⟨.high, .undriven, none, none⟩] with resetSeen := false }, ⟨.high, .undriven, none, none⟩,
      rfl, rfl, rfl, rfl, by decide⟩,
    ⟨inFlight 1 [] [.edge Ports.resetting], Ports.resetting, rfl, rfl, rfl, by decide⟩⟩

theorem witness_oneResetEdgeIsEnough :
    [Ports.resetting, Ports.resetting] ≠ [] ∧
    (∀ p ∈ [Ports.resetting, Ports.resetting], p.rst = .high ∧ p.inValid ≠ .undriven) ∧
    (inFlight 1 [] [.edge Ports.resetting, .edge Ports.resetting, .edge (Ports.offering 1#32 2#32)]).events =
      [Ports.resetting, Ports.resetting].map Event.edge ++ [.edge (Ports.offering 1#32 2#32)] := by decide

/-- One step after the reset edge, on an idle edge: the premises of both clauses hold of the only state in between. -/
theorem witness_resetAbandonsTheRequest :
    (inFlight 1 [true] [.edge Ports.resetting, .edge Ports.idle]).busy = true ∧ Ports.resetting.rst = .high ∧
    Ports.resetting.inValid ≠ .undriven ∧
    (∃ t, run 2 (inFlight 1 [true] [.edge Ports.resetting, .edge Ports.idle]) = .next t) ∧
    ∃ u, run 1 (inFlight 1 [true] [.edge Ports.resetting, .edge Ports.idle]) = .next u ∧ u.nextEvent ≠ .powerLoss ∧
      (¬ ∃ a b, u.acceptsNext a b) ∧ ¬ u.completesNext :=
  ⟨rfl, rfl, by decide, ⟨_, rfl⟩, _, rfl, (by intro h; cases h), (by rintro ⟨_, _, _, h, _, hv, _⟩; cases h; cases hv),
    (by rintro ⟨_, _, _, _, h, _⟩; cases h)⟩

theorem witness_offersWhileBusyAreNotRemembered :
    (inFlight 2 [false] []).resetSeen = true ∧ (inFlight 2 [false] []).busy = true ∧ (Ports.offering 1#32 2#32).rst = .low ∧ Ports.idle.rst = .low ∧
      (Ports.offering 1#32 2#32).inValid ≠ .undriven ∧ Ports.idle.inValid ≠ .undriven := by decide

theorem witness_operandPortsAreSampledOnlyWhenAccepting :
    (inFlight 1 [] []).resetSeen = true ∧ State.reset.resetSeen = true ∧
    ¬ ((Ports.offering 1#32 2#32).rst = .low ∧ (Ports.offering 1#32 2#32).inValid = .high ∧ (inFlight 1 [] []).busy = false) ∧
    ¬ (Ports.idle.rst = .low ∧ Ports.idle.inValid = .high ∧ State.reset.busy = false) := by decide

/-- A host that keeps the protocol, and one that breaks it in each of the three ways. -/
theorem witness_refusesExactlyUndrivenInputs :
    State.reset.hostDefined ∧
    ¬ ({ State.reset with events := [.edge ⟨.undriven, .low, none, none⟩] } : State).hostDefined ∧
    ¬ ({ State.reset with events := [.edge ⟨.high, .undriven, none, none⟩] } : State).hostDefined ∧
    ¬ ({ State.reset with events := [.edge ⟨.low, .high, some 1#32, none⟩] } : State).hostDefined := by
  simp [State.hostDefined, State.nextEvent, Ports.defined, Ports.idle]

/-- A step that accepts, one that completes and one that resets, each with the reset seen. -/
theorem witness_registerWriters :
    (∃ s t : State, step s = .next t ∧ t.resetSeen = true ∧ s.busy = false ∧ s.outValid = true ∧ t.outValid = false ∧
      ∃ a b, s.acceptsNext a b) ∧
    (∃ s t : State, step s = .next t ∧ t.resetSeen = true ∧ s.busy = true ∧ s.outValid = false ∧ t.outValid = true ∧
      s.completesNext) ∧
    (∃ s t : State, step s = .next t ∧ t.resetSeen = true ∧ s.resetsNext) ∧
    (∃ s t : State, step s = .next t ∧ t.resetSeen = true ∧ ¬ s.completesNext ∧ ¬ s.resetsNext ∧
      ¬ ∃ a b, s.acceptsNext a b) :=
  ⟨⟨{ State.reset with outValid := true, events := [.edge (Ports.offering 1#32 2#32)] }, _, rfl, rfl, rfl, rfl, rfl, 1#32, 2#32,
      Ports.offering 1#32 2#32, rfl, rfl, rfl, rfl, rfl, rfl⟩,
    ⟨inFlight 1 [] [.edge Ports.idle], _, rfl, rfl, rfl, rfl, rfl, inFlight_completesNext⟩,
    ⟨inFlight 1 [] [.edge Ports.resetting], _, rfl, rfl, Ports.resetting, rfl, rfl⟩,
    ⟨State.reset, _, rfl, rfl, (by rintro ⟨_, _, _, _, h, _⟩; cases h), (by rintro ⟨_, h, hr⟩; cases h; cases hr),
      (by rintro ⟨_, _, _, h, _, hv, _⟩; cases h; cases hv)⟩⟩

/-- An idle edge, a refused one and an accepting one. -/
theorem witness_timerIsUnreadWhileIdle :
    (State.reset.resetSeen = true ∧ State.reset.busy = false ∧ State.reset.nextEvent ≠ .powerLoss ∧
      ∃ t, step State.reset = .next t) ∧
    (∃ s : State, s.resetSeen = true ∧ s.busy = false ∧ s.nextEvent ≠ .powerLoss ∧ ∃ r, step s = .refused r) ∧
    (∃ s : State, s.resetSeen = true ∧ s.busy = false ∧ s.nextEvent ≠ .powerLoss ∧
      ∃ t, step s = .next t ∧ t.busy = true) :=
  ⟨⟨rfl, rfl, by decide, _, rfl⟩,
    ⟨{ State.reset with events := [.edge ⟨.undriven, .low, none, none⟩] }, rfl, rfl, by decide, _, rfl⟩,
    ⟨{ State.reset with events := [.edge (Ports.offering 1#32 2#32)] }, rfl, rfl, by decide, _, rfl, rfl⟩⟩

/-- A request in flight that meets the invariant, with its last allowed edge to come. -/
theorem inFlight_inv (choices : List Bool) (events : List Event) : (inFlight 1 choices events).Inv where
  busy_not_valid := fun _ _ => rfl
  busy_timer_pos := fun _ _ => Nat.le_refl 1
  busy_timer_le := fun _ _ => Nat.le_add_left 1 Config.latMaxPred
  valid_res := fun _ h => by cases h

/-- A valid result that meets the invariant: 1.0 + 2.0 = 3.0. -/
theorem validResult_inv :
    ({ State.reset with outValid := true, res := 0x40400000#32, opa := 0x3F800000#32, opb := 0x40000000#32 } : State).Inv where
  busy_not_valid := fun _ h => by cases h
  busy_timer_pos := fun _ h => by cases h
  busy_timer_le := fun _ h => by cases h
  valid_res := fun _ _ => by decide

theorem witness_everyStepKeepsTheInvariant :
    (inFlight 1 [] [.edge Ports.idle]).Inv ∧ ∃ t, step (inFlight 1 [] [.edge Ports.idle]) = .next t ∧ t.outValid = true :=
  ⟨inFlight_inv _ _, _, rfl, rfl⟩

theorem witness_resetAfterPowerLossSettlesTheRegisters :
    (inFlight 1 [] [.powerLoss, .edge ⟨.high, .undriven, none, none⟩]).events =
      .powerLoss :: .edge ⟨.high, .undriven, none, none⟩ :: [] := rfl

theorem witness_requestInFlightCompletesInTime :
    (inFlight 1 [] [.edge Ports.idle]).Inv ∧ (inFlight 1 [] [.edge Ports.idle]).resetSeen = true ∧
    (inFlight 1 [] [.edge Ports.idle]).busy = true ∧
    ∀ ev ∈ (inFlight 1 [] [.edge Ports.idle]).events.take (inFlight 1 [] [.edge Ports.idle]).timer, ev.quiet = true :=
  ⟨inFlight_inv _ _, rfl, rfl, by decide⟩

/-- After reset: an accepting edge for 1.0 + 2.0, a quiet edge, and the timer's choice "complete now". -/
def acceptThenQuiet : State :=
  { State.reset with events := [.edge (Ports.offering 0x3F800000#32 0x40000000#32), .edge Ports.idle], doneDraws := [true, false] }

theorem witness_acceptedRequestCompletes :
    acceptThenQuiet.resetSeen = true ∧ acceptThenQuiet.busy = false ∧
    acceptThenQuiet.events = .edge (Ports.offering 0x3F800000#32 0x40000000#32) :: [.edge Ports.idle] ∧
    (Ports.offering 0x3F800000#32 0x40000000#32).rst = .low ∧ (Ports.offering 0x3F800000#32 0x40000000#32).inValid = .high ∧
    (Ports.offering 0x3F800000#32 0x40000000#32).inA = some 0x3F800000#32 ∧
    (Ports.offering 0x3F800000#32 0x40000000#32).inB = some 0x40000000#32 ∧
    ∀ ev ∈ [Event.edge Ports.idle].take Config.latMax, ev.quiet = true :=
  ⟨rfl, rfl, rfl, rfl, rfl, rfl, rfl, fun ev h => by
    rw [List.mem_singleton.mp (List.mem_of_mem_take h)]
    decide⟩

/-- The same state, with the latency L = 1 that its list of choices writes out. -/
theorem witness_everyLatencyIsPossible :
    acceptThenQuiet.resetSeen = true ∧ acceptThenQuiet.busy = false ∧
    acceptThenQuiet.events = .edge (Ports.offering 0x3F800000#32 0x40000000#32) :: [.edge Ports.idle] ∧
    (Ports.offering 0x3F800000#32 0x40000000#32).rst = .low ∧ (Ports.offering 0x3F800000#32 0x40000000#32).inValid = .high ∧
    (Ports.offering 0x3F800000#32 0x40000000#32).inA = some 0x3F800000#32 ∧
    (Ports.offering 0x3F800000#32 0x40000000#32).inB = some 0x40000000#32 ∧
    (∀ ev ∈ [Event.edge Ports.idle].take 1, ev.quiet = true) ∧ 1 ≤ 1 ∧ 1 ≤ Config.latMax ∧
    acceptThenQuiet.doneDraws = List.replicate (1 - 1) false ++ true :: [false] :=
  ⟨rfl, rfl, rfl, rfl, rfl, rfl, rfl, by decide, Nat.le_refl 1, Nat.le_add_left 1 Config.latMaxPred, rfl⟩

/-- V-EAU rows 7, 6 and 4: distances 24, 24 and 23. -/
theorem witness_alignmentClosedForm :
    (expOf 0x33800000).toNat < (expOf 0x3F800000).toNat ∧ 24 ≤ expDistance 0x33800000 0x3F800000 ∧
    24 ≤ expDistance 0x3F800000 0x33800000 ∧ expDistance 0x3F800000 0x34000000 = 23 ∧ expDistance 0x3F800000 0x3F800000 = 0 := by
  decide

theorem witness_negligibleOperandLaw :
    isZero 0x3F800000 = false ∧ isZero 0x33800000 = false ∧ 24 ≤ expDistance 0x3F800000 0x33800000 ∧
    isZero 0x34000000 = false ∧ expDistance 0x3F800000 0x34000000 ≤ 23 := by decide

theorem witness_earlyExitDoesNotChangeTheResult : isZero 0x3F800000 = false ∧ isZero 0xB3800000 = false := by decide

theorem witness_zeroSumOnlyByCancellation :
    (eau 0x3F800000 0xBF800000).tagAl = .aligned ∧ isZero 0x3F800000 = false ∧ isZero 0xBF800000 = false ∧
    (matOf 0x3F800000 0xBF800000).sumZero = true := by decide

/-- Both ends of the ranges, and one value on each side of the carry. -/
theorem witness_normalizerClosedForm :
    1 ≤ (0x0000001#25).toNat ∧ (0x1FFFFFE#25).toNat ≤ 2 ^ 25 - 2 ∧ (255#10).toNat ≤ 255 ∧
    closedNorm 0x1FFFFFE 254 = .overflow ∧ closedNorm 1 23 = .underflow ∧ closedNorm 1 24 = .normal 1 (2 ^ 23) := by
  decide +kernel

theorem witness_normalizerIterationBound : (1#25) ≠ 0#25 ∧ (0x1000000#25).getLsbD 24 = true := by decide

/-- V-NU rows 11 and 14: the least and the greatest exponent of a NORMAL result. -/
theorem witness_normalResultExponent :
    outcomeTag 0x0C000001 0x8C000000 = .normal ∧ (expOf (fpAdd 0x0C000001 0x8C000000)).toNat = 1 ∧
    outcomeTag 0x7F800000 0x7F400000 = .normal ∧ (expOf (fpAdd 0x7F800000 0x7F400000)).toNat = 255 := by decide

theorem witness_largestExponentsOverflow :
    (expOf 0x7F000000).toNat = 254 ∧ (expOf 0x7F7FFFFF).toNat = 254 ∧ signOf 0x7F000000 = signOf 0x7F7FFFFF := by decide

theorem witness_outcomeTagsByCause :
    isZero 0x3F800000 = false ∧ isZero 0x34000000 = false ∧ expDistance 0x3F800000 0x34000000 ≤ 23 := by decide

theorem witness_signOfZeroResults :
    outcomeTag 0x3F800000 0xBF800000 = .zeroSum ∧ outcomeTag 0x80000003 0x00000001 = .underflow ∧
    fpAdd 0x00000000 0x80000000 = 0x80000000 := by decide

theorem witness_rightZeroIdentity :
    isZero 0x80000000 = true ∧ (0x40B00000#32).extractLsb' 0 31 ≠ 0#31 ∧ (0x00000000#32).extractLsb' 0 31 = 0#31 := by decide

theorem witness_additionIsCommutative :
    ¬ (isZero 0x3F800000 = true ∧ isZero 0x40000000 = true ∧ signOf 0x3F800000 ≠ signOf 0x40000000) ∧
    isZero 0x00000000 = true ∧ isZero 0x80000000 = true ∧ signOf 0x00000000 ≠ signOf 0x80000000 := by decide

theorem witness_cancellationGivesZero : (0x7FC00000#32).extractLsb' 0 31 ≠ 0#31 := by decide

theorem witness_signSymmetry :
    outcomeTag 0x3F800000 0xBF800000 = .zeroSum ∧ outcomeTag 0x7F7FFFFF 0x7F7FFFFF ≠ .zeroSum ∧
    outcomeTag 0x7F7FFFFF 0x7F7FFFFF ≠ .underflow := by decide

theorem witness_outputRange :
    expOf (fpAdd 0x00000000 0x00000001) = 0#8 ∧ outcomeTag 0x7F800000 0x7F400000 = .normal ∧
    expOf (fpAdd 0x7F7FFFFF 0x7F7FFFFF) = 255#8 := by decide

theorem witness_finiteInputClosure :
    expOf 0x7F7FFFFF ≠ 255#8 ∧ expOf 0x00000001 ≠ 255#8 ∧ ieeeClass (fpAdd 0x00000000 0x00000001) = .subnormal := by decide

/-- V-RND rows 1 and 5: equal signs and different signs. -/
theorem witness_truncationDirection :
    (ieeeClass 0x3F800000 = .normal ∧ ieeeClass 0x34400000 = .normal ∧ outcomeTag 0x3F800000 0x34400000 = .normal ∧
      signOf 0x3F800000 = signOf 0x34400000) ∧
    (ieeeClass 0xBF7FFFFF = .normal ∧ outcomeTag 0x3F800000 0xBF7FFFFF = .normal ∧
      signOf 0x3F800000 ≠ signOf 0xBF7FFFFF) := by decide

theorem witness_instancesAreIndependent :
    (∀ s ∈ [State.reset, State.reset], s.resetSeen = true ∧ s.nextEvent ≠ .powerLoss) ∧
    (0 : Nat) ≠ 1 ∧ [State.reset, State.reset][0]? = some State.reset ∧
    (∃ x, bankStep 0 [State.reset, State.reset] = .next x) ∧ (∃ y, bankStep 1 [State.reset, State.reset] = .next y) :=
  ⟨by decide, by decide, rfl, ⟨_, rfl⟩, ⟨_, rfl⟩⟩

/-- State.reset meets the premises of ADD at a ready block, of WAIT without a result and of IDLE. -/
theorem witness_harnessStatementsAtThePorts :
    ((Harness.start State.reset).block.resetSeen = true ∧ (Harness.start State.reset).block.inReady = true ∧
      (Harness.start State.reset).block.outValidPort = false) ∧
    ((Harness.start (inFlight 1 [] [])).block.resetSeen = true ∧
      (Harness.start (inFlight 1 [] [])).block.inReady = false) ∧
    (Harness.start { State.reset with outValid := true }).block.outValidPort = true :=
  ⟨⟨rfl, rfl, rfl⟩, ⟨rfl, rfl⟩, rfl⟩

end Sys2Proof.Tests
end

namespace Sys2Proof.Machine

/-! ### Kinds of edges

An accepting, a completion and a reset edge each determine the next state; `step_kinds` says that from the first reset edge on
a step does one of these, or leaves a request in flight, or does nothing (R59). -/

/-- An edge with BUSY = 0 and no offer changes no register (R59). -/
theorem clockEdge_of_no_offer {p : Ports} {s : State} (hr : p.rst = .low) (hv : p.inValid = .low) (hs : s.busy = false) :
    clockEdge p s = .next s := by
  simp [clockEdge, hr, hv, hs]

/-- After the first reset, a reset edge is answered only if the host keeps R126 at it. -/
theorem inValid_driven_of_answered_reset {p : Ports} {s t : State} (h : clockEdge p s = .next t) (hr : p.rst = .high)
    (hs : s.resetSeen = true) : p.inValid ≠ .undriven := by
  intro hv
  simp [clockEdge, hr, hv, hs] at h

/-- An undriven control port is refused after the first reset and only then, whatever the registers hold (R126). -/
theorem undrivenEdge_eq_refused_iff {why r : Refusal} {s : State} :
    undrivenEdge why s = .refused r ↔ s.resetSeen = true ∧ why = r := by
  cases hs : s.resetSeen <;> simp [undrivenEdge, hs]

/-- Why an edge is refused depends on the ports, on BUSY and on whether a reset has been seen, and on nothing else (R126). -/
theorem clockEdge_refused_congr {p : Ports} {s s' : State} {r : Refusal} (hseen : s'.resetSeen = s.resetSeen)
    (hbusy : s'.busy = s.busy) (h : clockEdge p s = .refused r) : clockEdge p s' = .refused r := by
  obtain ⟨rst, inValid, inA, inB⟩ := p
  cases rst with
  | undriven => exact undrivenEdge_eq_refused_iff.mpr (hseen ▸ undrivenEdge_eq_refused_iff.mp h)
  | high =>
    simp only [clockEdge, hseen] at h ⊢
    split at h
    next hundriven => rwa [if_pos hundriven]
    next => cases h
  | low =>
    cases inValid with
    | undriven => exact undrivenEdge_eq_refused_iff.mpr (hseen ▸ undrivenEdge_eq_refused_iff.mp h)
    | low =>
      simp only [clockEdge, busyEdge_eq] at h
      split at h <;> cases h
    | high =>
      simp only [clockEdge, busyEdge_eq, hbusy] at h ⊢
      split at h
      next => cases h
      next hb =>
        rw [if_neg hb]
        cases inA with
        | none => exact h
        | some a =>
          cases inB with
          | none => exact h
          | some b => cases h

theorem State.acceptsNext.busy_eq_false {s : State} {a b : Word} (h : s.acceptsNext a b) : s.busy = false := by
  obtain ⟨_, _, _, _, _, _, hb⟩ := h
  exact hb

/-- The step at an accepting edge (R59). -/
theorem step_of_acceptsNext {s : State} {a b : Word} (h : s.acceptsNext a b) : step s = .next (s.dropEvent.accept a b) := by
  obtain ⟨p, hp, hr, hv, ha, hb, hs⟩ := h
  rw [step_of_nextEvent hp]
  exact clockEdge_of_accepting hr hv ha hb hs

/-- The step at a completion edge (R59). -/
theorem step_of_completesNext {s : State} (h : s.completesNext) :
    step s = .next (s.dropEvent.dropDraw.complete (fpAdd s.opa s.opb)) := by
  obtain ⟨p, hp, hr, hv, hs, hd⟩ := h
  rw [step_of_nextEvent hp]
  exact (clockEdge_of_busy (s := s.dropEvent) hr hv hs).trans (busyEdge_of_done hd)

theorem eq_accept_of_step {s t : State} {a b : Word} (h : step s = .next t) (ha : s.acceptsNext a b) :
    t = s.dropEvent.accept a b := by
  simpa [step_of_acceptsNext ha] using h.symm

theorem eq_complete_of_step {s t : State} (h : step s = .next t) (hc : s.completesNext) :
    t = s.dropEvent.dropDraw.complete (fpAdd s.opa s.opb) := by
  simpa [step_of_completesNext hc] using h.symm

/-- The step at a reset edge, if it is answered (R119). -/
theorem eq_resetEdge_of_step {s t : State} (h : step s = .next t) (hr : s.resetsNext) : t = s.dropEvent.resetEdge := by
  obtain ⟨p, hp, hrst⟩ := hr
  have hclock : clockEdge p s.dropEvent = .next t := by simpa [step_of_nextEvent hp] using h
  have hreset := clockEdge_of_reset hrst (inValid_driven_of_answered_reset hclock hrst)
  simpa [hreset] using hclock.symm

/-- What a step to a state with the reset seen can be (R59): a reset, accepting or completion edge, one more edge of a request
in flight, or an edge that changes nothing. -/
theorem step_kinds {s t : State} (h : step s = .next t) (ht : t.resetSeen = true) :
    (s.resetsNext ∧ t = s.dropEvent.resetEdge) ∨
    (∃ a b, s.acceptsNext a b ∧ t = s.dropEvent.accept a b) ∨
    (s.completesNext ∧ t = s.dropEvent.dropDraw.complete (fpAdd s.opa s.opb)) ∨
    (s.busy = true ∧ s.done = false ∧ t = s.dropEvent.dropDraw.wait) ∨
    (s.busy = false ∧ t = s.dropEvent) := by
  obtain ⟨-, rfl⟩ | ⟨p, hp, hclock⟩ := step_cases h
  · cases ht
  obtain ⟨hr, hs⟩ | ⟨hr, hv, hb, a, b, ha, hb', hs⟩ | ⟨hr, hv, hb, hd, hs⟩ | ⟨-, -, hb, hd, hs⟩ | ⟨-, -, hb, hs⟩ |
    ⟨-, -, rfl⟩ := clockEdge_cases hclock
  · exact .inl ⟨⟨p, hp, hr⟩, hs⟩
  · exact .inr (.inl ⟨a, b, ⟨p, hp, hr, hv, ha, hb', hb⟩, hs⟩)
  · exact .inr (.inr (.inl ⟨⟨p, hp, hr, hv, hb, hd⟩, hs⟩))
  · exact .inr (.inr (.inr (.inl ⟨hb, hd, hs⟩)))
  · exact .inr (.inr (.inr (.inr ⟨hb, hs⟩)))
  · cases ht

/-! ### The invariant of the registers, one lemma per kind of edge -/

/-- With nothing in flight and no valid result the invariant asks nothing more. -/
theorem State.Inv.of_idle_of_not_valid {s : State} (hb : s.busy = false) (hv : s.outValid = false) : s.Inv where
  busy_not_valid _ _ := hv
  busy_timer_pos _ h := by simp [hb] at h
  busy_timer_le _ h := by simp [hb] at h
  valid_res _ h := by simp [hv] at h

/-- Before the first reset edge nothing is claimed of the registers (R123). -/
theorem State.Inv.of_not_resetSeen {s : State} (hs : s.resetSeen = false) : s.Inv where
  busy_not_valid h := by simp [hs] at h
  busy_timer_pos h := by simp [hs] at h
  busy_timer_le h := by simp [hs] at h
  valid_res h := by simp [hs] at h

theorem State.Inv.resetEdge (s : State) : s.resetEdge.Inv := .of_idle_of_not_valid rfl rfl

/-- An accepting edge starts the timer at LAT_MAX, which is at least 1 (R7, R23). -/
theorem State.Inv.accept (s : State) (a b : Word) : (s.accept a b).Inv where
  busy_not_valid _ _ := rfl
  busy_timer_pos _ _ := Nat.le_add_left 1 Config.latMaxPred
  busy_timer_le _ _ := Nat.le_refl Config.latMax
  valid_res _ h := by simp at h

/-- A completion edge that writes the sum of the captured operands makes the result valid (R20, R21). -/
theorem State.Inv.complete (s : State) : (s.complete (fpAdd s.opa s.opb)).Inv where
  busy_not_valid _ h := by simp at h
  busy_timer_pos _ h := by simp at h
  busy_timer_le _ h := by simp at h
  valid_res _ _ := rfl

theorem State.Inv.dropEvent {s : State} (hs : s.Inv) : s.dropEvent.Inv where
  busy_not_valid := hs.busy_not_valid
  busy_timer_pos := hs.busy_timer_pos
  busy_timer_le := hs.busy_timer_le
  valid_res := hs.valid_res

theorem State.Inv.dropDraw {s : State} (hs : s.Inv) : s.dropDraw.Inv where
  busy_not_valid := hs.busy_not_valid
  busy_timer_pos := hs.busy_timer_pos
  busy_timer_le := hs.busy_timer_le
  valid_res := hs.valid_res

/-- One more edge in flight leaves the timer at 1 or more if it stood at 2 or more. -/
theorem State.Inv.wait {s : State} (hs : s.Inv) (htimer : 1 < s.timer) : s.wait.Inv where
  busy_not_valid := hs.busy_not_valid
  busy_timer_pos _ _ := Nat.le_sub_one_of_lt htimer
  busy_timer_le hseen hb := (Nat.sub_le _ 1).trans (hs.busy_timer_le hseen hb)
  valid_res := hs.valid_res

/-- Settles O24: before the first reset the invariant asks nothing, and after it each kind of edge keeps it; an edge that does
not complete had a timer above 1. -/
theorem everyStepKeepsTheInvariant : Obligations.EveryStepKeepsTheInvariant := by
  intro s t hs h
  cases ht : t.resetSeen with
  | false => exact .of_not_resetSeen ht
  | true =>
    obtain ⟨-, rfl⟩ | ⟨a, b, -, rfl⟩ | ⟨-, rfl⟩ | ⟨-, hd, rfl⟩ | ⟨-, rfl⟩ := step_kinds h ht
    · exact .resetEdge s.dropEvent
    · exact .accept s.dropEvent a b
    · exact .complete s.dropEvent.dropDraw
    · exact hs.dropEvent.dropDraw.wait (s.one_lt_timer_of_not_done hd)
    · exact hs.dropEvent

/-- Settles O23. -/
theorem resetSatisfiesTheInvariant : Obligations.ResetSatisfiesTheInvariant :=
  ⟨.of_idle_of_not_valid rfl rfl, rfl, rfl, rfl, rfl, rfl, rfl⟩

/-! ### Which edges write which register -/

/-- Settles O18: of the five kinds of step only an accepting edge leads from BUSY = 0 to 1, and only a completion or a reset
edge from 1 to 0. -/
theorem busyRisesAndFallsWhereStated : Obligations.BusyRisesAndFallsWhereStated := by
  intro s t h ht
  have kinds := step_kinds h ht
  refine ⟨fun hb => ⟨fun hbt => ?_, ?_⟩, fun hb => ⟨fun hbt => ?_, ?_⟩⟩
  · obtain ⟨-, rfl⟩ | ⟨a, b, ha, -⟩ | ⟨-, rfl⟩ | ⟨hb', -⟩ | ⟨-, rfl⟩ := kinds
    · simp at hbt
    · exact ⟨a, b, ha⟩
    · simp at hbt
    · simp [hb] at hb'
    · simp [hb] at hbt
  · rintro ⟨a, b, ha⟩
    rw [eq_accept_of_step h ha, State.accept_busy]
  · obtain ⟨hr, -⟩ | ⟨a, b, ha, -⟩ | ⟨hc, -⟩ | ⟨-, -, rfl⟩ | ⟨hb', -⟩ := kinds
    · exact .inr hr
    · simp [ha.busy_eq_false] at hb
    · exact .inl hc
    · simp [hb] at hbt
    · simp [hb] at hb'
  · rintro (hc | hr)
    · rw [eq_complete_of_step h hc, State.complete_busy]
    · rw [eq_resetEdge_of_step h hr, State.resetEdge_busy]

/-- Settles O19: only a completion edge raises OUT_VALID, and only an accepting or a reset edge lowers it. -/
theorem outValidRisesAndFallsWhereStated : Obligations.OutValidRisesAndFallsWhereStated := by
  intro s t h ht
  have kinds := step_kinds h ht
  refine ⟨fun hc => ?_, fun hv hvt => ?_, ?_, fun hr => ?_, fun hv hvt => ?_⟩
  · rw [eq_complete_of_step h hc, State.complete_outValid]
  · obtain ⟨-, rfl⟩ | ⟨a, b, -, rfl⟩ | ⟨hc, -⟩ | ⟨-, -, rfl⟩ | ⟨-, rfl⟩ := kinds
    · simp at hvt
    · simp at hvt
    · exact hc
    · simp [hv] at hvt
    · simp [hv] at hvt
  · rintro ⟨a, b, ha⟩
    rw [eq_accept_of_step h ha, State.accept_outValid]
  · rw [eq_resetEdge_of_step h hr, State.resetEdge_outValid]
  · obtain ⟨hr, -⟩ | ⟨a, b, ha, -⟩ | ⟨-, rfl⟩ | ⟨-, -, rfl⟩ | ⟨-, rfl⟩ := kinds
    · exact .inr hr
    · exact .inl ⟨a, b, ha⟩
    · simp at hvt
    · simp [hv] at hvt
    · simp [hv] at hvt

/-- Settles O20: of the five kinds of step only a completion and a reset edge write RES. -/
theorem resIsWrittenOnlyWhereStated : Obligations.ResIsWrittenOnlyWhereStated := by
  intro s t h ht
  refine ⟨fun hc => ?_, fun hr => ?_, fun hnc hnr => ?_⟩
  · rw [eq_complete_of_step h hc, State.complete_res]
  · rw [eq_resetEdge_of_step h hr, State.resetEdge_res]
  · obtain ⟨hr, -⟩ | ⟨a, b, -, rfl⟩ | ⟨hc, -⟩ | ⟨-, -, rfl⟩ | ⟨-, rfl⟩ := step_kinds h ht
    · exact absurd hr hnr
    · simp
    · exact absurd hc hnc
    · simp
    · simp

/-- Settles O21: of the five kinds of step only an accepting and a reset edge write OPA and OPB. -/
theorem operandRegistersAreWrittenOnlyWhereStated : Obligations.OperandRegistersAreWrittenOnlyWhereStated := by
  intro s t h ht
  refine ⟨fun a b ha => ?_, fun hr => ?_, fun hna hnr => ?_⟩
  · rw [eq_accept_of_step h ha]
    simp
  · rw [eq_resetEdge_of_step h hr]
    simp
  · obtain ⟨hr, -⟩ | ⟨a, b, ha, -⟩ | ⟨-, rfl⟩ | ⟨-, -, rfl⟩ | ⟨-, rfl⟩ := step_kinds h ht
    · exact absurd hr hnr
    · exact absurd ⟨a, b, ha⟩ hna
    · simp
    · simp
    · simp

/-! ### The timer while BUSY = 0 -/

/-- An answered edge with BUSY = 0: with another value in the timer the answer differs in the timer alone, and not even there
if the edge accepts a request. -/
theorem clockEdge_setTimer_of_idle {p : Ports} {s t : State} (n : Nat) (hs : s.resetSeen = true) (hb : s.busy = false)
    (h : clockEdge p s = .next t) :
    ∃ k, clockEdge p { s with timer := n } = .next { t with timer := k } ∧ (t.busy = true → k = t.timer) := by
  obtain ⟨hr, rfl⟩ | ⟨hr, hv, -, a, b, ha, hb', rfl⟩ | ⟨-, -, hb', -⟩ | ⟨-, -, hb', -⟩ | ⟨hr, hv, -, rfl⟩ | ⟨-, hs', -⟩ :=
    clockEdge_cases h
  · exact ⟨0, clockEdge_of_reset hr fun _ => inValid_driven_of_answered_reset h hr hs, fun _ => rfl⟩
  · exact ⟨Config.latMax, clockEdge_of_accepting hr hv ha hb' hb, fun _ => rfl⟩
  · simp [hb] at hb'
  · simp [hb] at hb'
  · exact ⟨n, clockEdge_of_no_offer hr hv hb, fun hbt => by simp [hb] at hbt⟩
  · simp [hs] at hs'

/-- Settles O22: an answered edge by `clockEdge_setTimer_of_idle`, and a refusal does not depend on the timer. -/
theorem timerIsUnreadWhileIdle : Obligations.TimerIsUnreadWhileIdle := by
  intro s n hs hpower hb
  cases hev : s.nextEvent with
  | powerLoss => exact absurd hev hpower
  | edge p =>
    have hstep : step s = clockEdge p s.dropEvent := step_of_nextEvent hev
    have hstep' : step { s with timer := n } = clockEdge p { s.dropEvent with timer := n } :=
      step_of_nextEvent (s := { s with timer := n }) hev
    rw [hstep, hstep']
    exact ⟨fun t => clockEdge_setTimer_of_idle n hs hb, fun r => clockEdge_refused_congr rfl rfl⟩

/-! ### ADD and the outputs -/

/-- Settles O6: `exec_add` names the one state that `ADD` answers. -/
theorem addLeavesTheRestAlone : Obligations.AddLeavesTheRestAlone := by
  intro a b s t _ h
  have ht : t = s.complete (fpAdd a b) := by simpa using h.symm
  simp [ht]

/-- Settles O17: the ports are defined as these functions. -/
theorem outputsReadTheRegisters : Obligations.OutputsReadTheRegisters :=
  fun _ => ⟨rfl, rfl, rfl⟩

end Sys2Proof.Machine

namespace Sys2Proof

/-! ### The request word, the decoder and the encoder -/

/-- The bits of a request word (R48). -/
theorem requestWord_getLsbD (a b : Word) (i : Nat) :
    (requestWord a b).getLsbD i = if i < 32 then b.getLsbD i else a.getLsbD (i - 32) :=
  BitVec.getLsbD_append

/-- Settles O1. -/
theorem requestWordHoldsOperands : Obligations.RequestWordHoldsOperands := by
  intro a b i hi
  have hupper : ¬ 32 + i < 32 := by omega
  simp only [encode, requestWord_getLsbD]
  rw [if_neg hupper, if_pos hi, Nat.add_sub_cancel_left]
  exact ⟨rfl, rfl⟩

/-- Settles O2: `reqA` and `reqB` are defined as these halves. -/
theorem everyRequestWordIsAdd : Obligations.EveryRequestWordIsAdd :=
  fun _ => rfl

/-- Settles O4. -/
theorem printedRequestWordsDecode : Obligations.PrintedRequestWordsDecode := by
  unfold Obligations.PrintedRequestWordsDecode
  decide

/-- A request word is its two halves and nothing else (R48, R50). -/
@[simp] theorem requestWord_reqA_reqB (w : ReqWord) : requestWord (reqA w) (reqB w) = w :=
  calc requestWord (reqA w) (reqB w)
    _ = w.extractLsb' 0 (32 + 32) := BitVec.extractLsb'_append_extractLsb'_eq_extractLsb' rfl
    _ = w := BitVec.extractLsb'_eq_self

@[simp] theorem encode_decode (w : ReqWord) : encode (decode w) = w :=
  requestWord_reqA_reqB w

@[simp] theorem decode_encode (i : Instr) : decode (encode i) = i := by
  cases i with
  | add a b => exact decode_requestWord a b

/-- Exactly the rows of 64 bits whose number 64 bits hold decode, and as that request word (R51, R52). -/
theorem decodeTableWord_eq (nbits w : Nat) :
    decodeTableWord nbits w =
      if nbits = 64 ∧ w < 2 ^ 64 then some (decode (BitVec.ofNat 64 w)) else none := by
  unfold decodeTableWord decodeBits
  by_cases hbits : nbits = 64
  · by_cases hw : w < 2 ^ 64
    · simp only [hbits, hw, and_self, if_true]
    · simp only [hbits, hw, and_false, if_true, if_false]
  · simp only [hbits, false_and, if_false]

/-- Every operation is well formed (R51). -/
@[simp] theorem Instr.wf_eq_true (i : Instr) : i.wf = true := by
  cases i with
  | add a b => rfl

/-- Settles O3: `decodeTableWord_eq` says which rows decode, and there `decode` and `encode` are inverse to each other. -/
theorem tableWordsAndEncoderAgree : Obligations.TableWordsAndEncoderAgree := by
  refine ⟨fun i _ => ?_, fun w hw => ⟨decode (BitVec.ofNat 64 w), ?_, Instr.wf_eq_true _, ?_⟩, fun nbits w h => ?_⟩
  · rw [decodeTableWord_eq, if_pos ⟨rfl, (encode i).isLt⟩, BitVec.ofNat_toNat, BitVec.setWidth_eq, decode_encode]
  · rw [decodeTableWord_eq, if_pos ⟨rfl, hw⟩]
  · rw [encode_decode, BitVec.toNat_ofNat, Nat.mod_eq_of_lt hw]
  · rw [decodeTableWord_eq, if_neg (by omega)]

end Sys2Proof

namespace Sys2Proof.Machine

/-! ### The placed word -/

/-- A 64-bit word is placed as the two operands it decodes to (log entry 8). -/
theorem State.withFetchWord_toNat (s : State) (w : ReqWord) :
    s.withFetchWord 64 w.toNat = s.loadRequest (reqA w) (reqB w) := by
  have hword : BitVec.ofNat 64 (w.toNat % 2 ^ 64) = w := by
    rw [Nat.mod_eq_of_lt w.isLt, BitVec.ofNat_toNat, BitVec.setWidth_eq]
  simp only [State.withFetchWord, hword]

/-- A loaded request has its completion edge next: the host is idle at it and the timer is at its last edge (R23). -/
theorem State.loadRequest_completesNext (s : State) (a b : Word) : (s.loadRequest a b).completesNext :=
  ⟨Ports.idle, rfl, rfl, nofun, rfl, State.done_of_timer_le_one _ (Nat.le_refl 1)⟩

/-- Settles O8: the placed word is the request whose completion edge is the next step. -/
theorem placedWordRunsNext : Obligations.PlacedWordRunsNext := by
  intro s w _
  rw [State.withFetchWord_toNat, step_of_completesNext (s.loadRequest_completesNext _ _)]
  simp [decode]

/-! ### The harness at the ports -/

/-- An edge driven by the harness is the block's clock edge on its present state (R54; log entry 14). -/
theorem Harness.driveThen_of_clockEdge {h : Harness} {p : Ports} {b : State} (todo : Option HarnessStmt)
    (hedge : clockEdge p h.block = .next b) : h.driveThen p todo = .next ({ h with block := b }, todo) := by
  simp only [Harness.driveThen, Harness.drive, step_of_pushed_edge, hedge]

/-- An edge with a request in flight has an answer and leaves the operands in flight alone (R59, R124). -/
theorem clockEdge_of_busy_keeps_operands {p : Ports} {s : State} (hr : p.rst = .low) (hv : p.inValid ≠ .undriven)
    (hb : s.busy = true) : ∃ t, clockEdge p s = .next t ∧ t.opa = s.opa ∧ t.opb = s.opb := by
  rw [clockEdge_of_busy hr hv hb]
  cases hd : s.done with
  | true => exact ⟨_, busyEdge_of_done hd, rfl, rfl⟩
  | false => exact ⟨_, busyEdge_of_not_done hd, rfl, rfl⟩

/-- An edge at which the host is idle has an answer (R59). -/
theorem clockEdge_idle_answered (s : State) : ∃ t, clockEdge Ports.idle s = .next t := by
  cases hb : s.busy with
  | true =>
    obtain ⟨t, ht, -⟩ := clockEdge_of_busy_keeps_operands (p := Ports.idle) rfl nofun hb
    exact ⟨t, ht⟩
  | false => exact ⟨s, clockEdge_of_no_offer rfl rfl hb⟩

/-- An idle edge driven by the harness is the block's step on it (R54). -/
theorem Harness.driveThen_idle (h : Harness) (todo : Option HarnessStmt) :
    ∃ b, step { h.block with events := .edge Ports.idle :: h.block.events } = .next b ∧
      h.driveThen Ports.idle todo = .next ({ h with block := b }, todo) := by
  obtain ⟨b, hb⟩ := clockEdge_idle_answered h.block
  exact ⟨b, hb, Harness.driveThen_of_clockEdge todo hb⟩

/-- RESET is one reset edge (R54). -/
theorem Harness.act_reset (h : Harness) : h.act .reset = .next ({ h with block := h.block.resetEdge }, none) :=
  Harness.driveThen_of_clockEdge none (clockEdge_of_reset (p := Ports.resetting) rfl fun _ => nofun)

/-- ADD at an edge with `in_ready` = 1 is accepted (R54). -/
theorem Harness.act_add_of_ready {h : Harness} (x y : HarnessOperand) (hready : h.block.inReady = true) :
    h.act (.add x y) = .next ({ h with block := h.block.accept (h.value x) (h.value y) }, none) := by
  have hb : h.block.busy = false := by simpa [State.inReady] using hready
  rw [Harness.act, if_pos hready]
  exact Harness.driveThen_of_clockEdge none (clockEdge_of_accepting rfl rfl rfl rfl hb)

/-- ADD at an edge with `in_ready` = 0 is left to be done (R54), and the offer does not touch the operands in flight (R124). -/
theorem Harness.act_add_of_not_ready {h : Harness} (x y : HarnessOperand) (hready : h.block.inReady = false) :
    ∃ b, step { h.block with events := .edge (Ports.offering (h.value x) (h.value y)) :: h.block.events } = .next b ∧
      h.act (.add x y) = .next ({ h with block := b }, some (.add x y)) ∧ b.opa = h.block.opa ∧ b.opb = h.block.opb := by
  have hbusy : h.block.busy = true := by simpa [State.inReady] using hready
  obtain ⟨b, hb, hopa, hopb⟩ :=
    clockEdge_of_busy_keeps_operands (p := Ports.offering (h.value x) (h.value y)) rfl nofun hbusy
  refine ⟨b, hb, ?_, hopa, hopb⟩
  rw [Harness.act, hready]
  exact Harness.driveThen_of_clockEdge _ hb

/-- WAIT with `out_valid` = 1 is done without an edge (R54; log entry 14). -/
theorem Harness.act_wait_of_valid {h : Harness} (hv : h.block.outValidPort = true) : h.act .wait = .next (h, none) := by
  rw [Harness.act, if_pos hv]

/-- WAIT with `out_valid` = 0 drives an idle edge and is left to be done (R54). -/
theorem Harness.act_wait_of_not_valid {h : Harness} (hv : h.block.outValidPort = false) :
    h.act .wait = h.driveThen Ports.idle (some .wait) := by
  rw [Harness.act, hv]
  rfl

/-- CHECK records whether there is a valid result and it is the one asked for (R54; log entry 14). -/
theorem Harness.act_check (h : Harness) (w : Word) :
    ∃ c, h.act (.check w) = .next ({ h with checks := h.checks ++ [c] }, none) ∧
      (c = true ↔ h.block.outValidPort = true ∧ h.block.outResult = w) :=
  ⟨_, rfl, by simp only [Bool.and_eq_true, beq_iff_eq]⟩

/-- Settles O54: one lemma per statement of the harness; IDLE n and WAIT drive the same idle edge, and IDLE 0, MOV and a comment
are by definition. -/
theorem harnessStatementsAtThePorts : Obligations.HarnessStatementsAtThePorts := by
  intro h
  refine ⟨h.act_reset, fun x y _ => Harness.act_add_of_ready x y, fun x y _ => Harness.act_add_of_not_ready x y,
    Harness.act_wait_of_valid, fun _ hv => ?_, ⟨rfl, fun n _ => h.driveThen_idle _⟩, fun _ => rfl, h.act_check,
    fun _ => rfl⟩
  rw [Harness.act_wait_of_not_valid hv]
  exact h.driveThen_idle _

end Sys2Proof.Machine

namespace Sys2Proof.Machine

/-! ### The alignment, from registers to numbers (R81 to R84)

The loop on registers takes the same turns as the listing's loop on numbers; the listing's loop has a closed form by induction
on the distance of the exponents. -/

/-- The answer of the alignment loop in the listing's terms. -/
def AlignRun.listed (r : AlignRun) : ListedAlign :=
  match r.tag with
  | .aligned => .aligned r.regs.ea.toNat r.regs.ma.toNat r.regs.mb.toNat
  | .neglA => .neglA
  | .neglB => .neglB

@[simp] theorem AlignRun.listed_aligned (r : AlignRegs) (k : Nat) :
    (⟨.aligned, r, k⟩ : AlignRun).listed = .aligned r.ea.toNat r.ma.toNat r.mb.toNat := rfl
@[simp] theorem AlignRun.listed_neglA (r : AlignRegs) (k : Nat) : (⟨.neglA, r, k⟩ : AlignRun).listed = .neglA := rfl
@[simp] theorem AlignRun.listed_neglB (r : AlignRegs) (k : Nat) : (⟨.neglB, r, k⟩ : AlignRun).listed = .neglB := rfl

theorem listedAlign_equal (fuel e ma mb : Nat) : listedAlign fuel e e ma mb = .aligned e ma mb := by
  cases fuel <;> simp [listedAlign]

/-- One turn of the listing's loop that shifts operand a (step 3 of R58). -/
theorem listedAlign_shiftA (fuel ma mb : Nat) {ea eb : Nat} (h : ea < eb) :
    listedAlign (fuel + 1) ea eb ma mb = if ma / 2 = 0 then .neglA else listedAlign fuel (ea + 1) eb (ma / 2) mb := by
  simp [listedAlign, h, h.ne]

/-- One turn of the listing's loop that shifts operand b (step 3 of R58). -/
theorem listedAlign_shiftB (fuel ma mb : Nat) {ea eb : Nat} (h : eb < ea) :
    listedAlign (fuel + 1) ea eb ma mb = if mb / 2 = 0 then .neglB else listedAlign fuel ea (eb + 1) ma (mb / 2) := by
  simp [listedAlign, h.ne', h.not_gt]

/-- A significand shifted out of its register is a number halved to 0 (R82). -/
theorem ushiftRight_one_eq_zero_iff (m : Sig24) : m >>> 1 = 0#24 ↔ m.toNat / 2 = 0 := by
  rw [← BitVec.toNat_inj, BitVec.toNat_ushiftRight, Nat.shiftRight_one]
  rfl

/-- The working exponent does not wrap: it stays below the larger of two 8-bit exponents (R86). -/
theorem exp_succ_toNat {x y : Exp10} (h : x.toNat < y.toNat) : (x + 1#10).toNat = x.toNat + 1 :=
  BitVec.toNat_add_of_lt (Nat.lt_of_le_of_lt h y.isLt)

/-- Turn by turn, the loop on registers is the loop on numbers. -/
theorem alignLoop_listed (fuel k : Nat) (r : AlignRegs) :
    (alignLoop fuel k r).listed = listedAlign fuel r.ea.toNat r.eb.toNat r.ma.toNat r.mb.toNat := by
  induction fuel generalizing k r with
  | zero => rfl
  | succ fuel ih =>
    obtain hlt | heq | hgt := Nat.lt_trichotomy r.ea.toNat r.eb.toNat
    · have hult : r.ea.ult r.eb = true := BitVec.ult_iff_toNat_lt.mpr hlt
      rw [listedAlign_shiftA _ _ _ hlt]
      by_cases hm : r.ma >>> 1 = 0#24
      · rw [alignLoop_neglA _ _ _ hult hm, if_pos ((ushiftRight_one_eq_zero_iff _).mp hm), AlignRun.listed_neglA]
      · rw [alignLoop_shiftA _ _ _ hult hm, ih, if_neg (mt (ushiftRight_one_eq_zero_iff _).mpr hm)]
        simp [exp_succ_toNat hlt, Nat.shiftRight_one]
    · rw [alignLoop_equal _ _ _ (BitVec.eq_of_toNat_eq heq), heq, listedAlign_equal, AlignRun.listed_aligned, heq]
    · have hne : r.ea ≠ r.eb := fun h => hgt.ne' (congrArg BitVec.toNat h)
      have hult : r.ea.ult r.eb = false := by simpa [BitVec.ult] using hgt.le
      rw [listedAlign_shiftB _ _ _ hgt]
      by_cases hm : r.mb >>> 1 = 0#24
      · rw [alignLoop_neglB _ _ _ hne hult hm, if_pos ((ushiftRight_one_eq_zero_iff _).mp hm), AlignRun.listed_neglB]
      · rw [alignLoop_shiftB _ _ _ hne hult hm, ih, if_neg (mt (ushiftRight_one_eq_zero_iff _).mpr hm)]
        simp [exp_succ_toNat hgt, Nat.shiftRight_one]

/-- Halving, then shifting down the rest of a distance of at least 1. -/
theorem half_div_two_pow_sub_succ (m : Nat) {x y : Nat} (h : x < y) : m / 2 / 2 ^ (y - (x + 1)) = m / 2 ^ (y - x) := by
  rw [Nat.div_div_eq_div_mul, ← pow_succ', show y - (x + 1) + 1 = y - x by omega]

/-- The listing's loop in closed form, if operand a is the one to shift. -/
theorem listedAlign_of_le {fuel ea eb ma : Nat} (mb : Nat) (hle : ea ≤ eb) (hfuel : eb - ea ≤ fuel) (hma : ma ≠ 0) :
    listedAlign fuel ea eb ma mb = if ma / 2 ^ (eb - ea) = 0 then .neglA else .aligned eb (ma / 2 ^ (eb - ea)) mb := by
  induction fuel generalizing ea ma with
  | zero =>
    obtain rfl : ea = eb := by omega
    simp [listedAlign_equal, hma]
  | succ fuel ih =>
    obtain heq | hlt := hle.eq_or_lt
    · simp [heq, listedAlign_equal, hma]
    rw [listedAlign_shiftA _ _ _ hlt, ← half_div_two_pow_sub_succ ma hlt]
    by_cases hm : ma / 2 = 0
    · simp [hm]
    · rw [if_neg hm, ih hlt (by omega) hm]

/-- The listing's loop in closed form, if operand b is the one to shift. -/
theorem listedAlign_of_ge {fuel ea eb mb : Nat} (ma : Nat) (hle : eb ≤ ea) (hfuel : ea - eb ≤ fuel) (hmb : mb ≠ 0) :
    listedAlign fuel ea eb ma mb = if mb / 2 ^ (ea - eb) = 0 then .neglB else .aligned ea ma (mb / 2 ^ (ea - eb)) := by
  induction fuel generalizing eb mb with
  | zero =>
    obtain rfl : eb = ea := by omega
    simp [listedAlign_equal, hmb]
  | succ fuel ih =>
    obtain heq | hlt := hle.eq_or_lt
    · simp [heq, listedAlign_equal, hmb]
    rw [listedAlign_shiftB _ _ _ hlt, ← half_div_two_pow_sub_succ mb hlt]
    by_cases hm : mb / 2 = 0
    · simp [hm]
    · rw [if_neg hm, ih hlt (by omega) hm]

theorem expNat_le (p : Word) : expNat p ≤ 255 := Nat.le_of_lt_succ (expOf p).isLt

/-- The range of a significand as a number (R46). -/
theorem sigNat_bounds (p : Word) : 2 ^ 23 ≤ sigNat p ∧ sigNat p < 2 ^ 24 :=
  by simpa only [sigNat, significand_toNat] using significand_bounds p

/-- A significand shifted `d` places is gone exactly from 24 places on (R84). -/
theorem sigNat_div_eq_zero_iff (p : Word) (d : Nat) : sigNat p / 2 ^ d = 0 ↔ 24 ≤ d := by
  obtain ⟨hlo, hhi⟩ := sigNat_bounds p
  rw [Nat.div_eq_zero_iff_lt (by positivity)]
  refine ⟨fun h => ?_, fun h => hhi.trans_le (Nat.pow_le_pow_right (by omega) h)⟩
  exact (Nat.pow_lt_pow_iff_right (by omega)).mp (hlo.trans_lt h)

/-- The biased exponent of a sum before normalization: the larger of the operands' (R84). -/
def commonExp (a b : Word) : Nat := max (expNat a) (expNat b)

/-- The significand of `a` after its alignment to the exponent of `b`; `a`'s own significand if `b`'s exponent is not larger
(R84). -/
def alignedSig (a b : Word) : Nat := sigNat a / 2 ^ (expNat b - expNat a)

/-- The distance of the exponents in the listing's terms (R84). -/
theorem expDistance_eq (a b : Word) : expDistance a b = (expNat a - expNat b) + (expNat b - expNat a) := rfl

/-- The operand with the larger exponent is not shifted (R84). -/
theorem alignedSig_of_le {a b : Word} (h : expNat a ≤ expNat b) : alignedSig b a = sigNat b := by
  rw [alignedSig, Nat.sub_eq_zero_of_le h, pow_zero, Nat.div_one]

/-- Operands whose exponents are less than 24 apart keep their leading 1, at bit 23 - d (R65). -/
theorem log2_alignedSig {a b : Word} (h : expNat b - expNat a ≤ 23) :
    Nat.log2 (alignedSig a b) = 23 - (expNat b - expNat a) := by
  obtain ⟨hlo, hhi⟩ := sigNat_bounds a
  have hne : alignedSig a b ≠ 0 := mt (sigNat_div_eq_zero_iff a _).mp (by omega)
  rw [Nat.log2_eq_iff hne, alignedSig, Nat.le_div_iff_mul_le (by positivity), Nat.div_lt_iff_lt_mul (by positivity),
    ← pow_add, ← pow_add, show 23 - (expNat b - expNat a) + (expNat b - expNat a) = 23 by omega,
    show 23 - (expNat b - expNat a) + 1 + (expNat b - expNat a) = 24 by omega]
  exact ⟨hlo, hhi⟩

theorem closedAlign_neglA {a b : Word} (h : expNat a + 24 ≤ expNat b) : closedAlign a b = .neglA := by
  rw [closedAlign, if_pos (by omega), if_pos (by omega)]

theorem closedAlign_neglB {a b : Word} (h : expNat b + 24 ≤ expNat a) : closedAlign a b = .neglB := by
  rw [closedAlign, if_pos (by omega), if_neg (by omega)]

theorem closedAlign_aligned {a b : Word} (h : expDistance a b ≤ 23) :
    closedAlign a b = .aligned (commonExp a b) (alignedSig a b) (alignedSig b a) := by
  rw [expDistance_eq] at h
  rw [closedAlign, if_neg (by omega), commonExp]
  by_cases hlt : expNat a < expNat b
  · rw [if_pos hlt, Nat.max_eq_right hlt.le, alignedSig_of_le hlt.le, alignedSig, Nat.sub_eq_zero_of_le hlt.le, Nat.zero_add]
  · have hle : expNat b ≤ expNat a := Nat.le_of_not_lt hlt
    rw [if_neg hlt, Nat.max_eq_left hle, alignedSig_of_le hle, alignedSig, Nat.sub_eq_zero_of_le hle, Nat.add_zero]

/-- The listing's alignment is the closed form (R84). -/
theorem listedAlign_eq_closedAlign (a b : Word) :
    listedAlign 255 (expNat a) (expNat b) (sigNat a) (sigNat b) = closedAlign a b := by
  have hsig (p : Word) : sigNat p ≠ 0 := by have := (sigNat_bounds p).1; omega
  have ha := expNat_le a
  have hb := expNat_le b
  obtain hle | hle := Nat.le_total (expNat a) (expNat b)
  · rw [listedAlign_of_le _ hle (by omega) (hsig a)]
    simp only [sigNat_div_eq_zero_iff]
    split
    next h => rw [closedAlign_neglA (by omega)]
    next h =>
      rw [closedAlign_aligned (by rw [expDistance_eq]; omega), commonExp, Nat.max_eq_right hle, alignedSig_of_le hle, alignedSig]
  · rw [listedAlign_of_ge _ hle (by omega) (hsig b)]
    simp only [sigNat_div_eq_zero_iff]
    split
    next h => rw [closedAlign_neglB (by omega)]
    next h =>
      rw [closedAlign_aligned (by rw [expDistance_eq]; omega), commonExp, Nat.max_eq_left hle, alignedSig_of_le hle, alignedSig]

/-- The alignment loop on registers is the closed form (R84). -/
theorem alignRun_listed (a b : Word) : (alignRun a b).listed = closedAlign a b := by
  rw [← listedAlign_eq_closedAlign, alignRun, alignLoop_listed]
  simp only [unpack_ea, unpack_eb, unpack_ma, unpack_mb, workExp_toNat, significand_toNat]
  rfl

/-! ### The signed sum as an integer (R90 to R93) -/

/-- A magnitude with a sign, over the integers (R90). -/
def signedInt (neg : Bool) (m : Nat) : Int := if neg then -(m : Int) else m

theorem signedInt_natAbs (neg : Bool) (m : Nat) : (signedInt neg m).natAbs = m := by
  cases neg <;> simp [signedInt]

theorem signedInt_add_of_eq (sa : Bool) (ma mb : Nat) :
    signedInt sa ma + signedInt sa mb = signedInt sa 1 * ((ma : Int) + mb) := by
  cases sa <;> simp [signedInt, Int.add_comm]

theorem signedInt_add_of_ne {sa sb : Bool} (h : sa ≠ sb) (ma mb : Nat) :
    signedInt sa ma + signedInt sb mb = signedInt sa 1 * ((ma : Int) - mb) := by
  obtain rfl : sb = !sa := Bool.eq_not.mpr h.symm
  cases sa <;> simp [signedInt] <;> omega

/-- Equal signs add the magnitudes, different signs leave their difference. -/
theorem signedInt_add_natAbs (sa sb : Bool) (ma mb : Nat) :
    (signedInt sa ma + signedInt sb mb).natAbs = if sa = sb then ma + mb else (ma - mb) + (mb - ma) := by
  by_cases h : sa = sb
  · rw [if_pos h, ← h, signedInt_add_of_eq, Int.natAbs_mul, signedInt_natAbs]
    omega
  · rw [if_neg h, signedInt_add_of_ne h, Int.natAbs_mul, signedInt_natAbs]
    omega

/-- 27 bits hold the signed significand (R90). -/
theorem signedSig_toInt (sign : Bool) (m : Sig24) : (signedSig sign m).toInt = signedInt sign m.toNat := by
  have hm : m.toNat < 2 ^ 24 := m.isLt
  have hwide : (m.setWidth 27).toInt = m.toNat := by
    rw [BitVec.toInt_setWidth, Int.bmod_eq_of_le (by omega) (by omega)]
  cases sign with
  | false => exact hwide
  | true =>
    show (-(m.setWidth 27)).toInt = -(m.toNat : Int)
    rw [BitVec.toInt_neg, hwide, Int.bmod_eq_of_le (by omega) (by omega)]

/-- The exact sum is at most 2^25 - 2 in magnitude (R91). -/
theorem signedInt_add_natAbs_le (sa sb : Bool) {ma mb : Nat} (ha : ma < 2 ^ 24) (hb : mb < 2 ^ 24) :
    (signedInt sa ma + signedInt sb mb).natAbs ≤ 2 ^ 25 - 2 := by
  have hadd := Int.natAbs_add_le (signedInt sa ma) (signedInt sb mb)
  rw [signedInt_natAbs, signedInt_natAbs] at hadd
  omega

/-- The 27-bit sum does not wrap (R91). -/
theorem signedSum_toInt (sa sb : Bool) (ma mb : Sig24) :
    (signedSum sa sb ma mb).toInt = signedInt sa ma.toNat + signedInt sb mb.toNat := by
  have hle := signedInt_add_natAbs_le sa sb ma.isLt mb.isLt
  rw [signedSum, BitVec.toInt_add, signedSig_toInt, signedSig_toInt, Int.bmod_eq_of_le (by omega) (by omega)]

/-- `|s|` as 25 bits (R92), for a sum that 25 bits hold in magnitude. -/
theorem sumMagnitude_toNat {s : Sum27} (h : s.toInt.natAbs < 2 ^ 25) : (sumMagnitude s).toNat = s.toInt.natAbs := by
  have hs : s.toNat < 2 ^ 27 := s.isLt
  have htoInt := BitVec.toInt_eq_toNat_cond s
  rw [sumMagnitude, BitVec.toNat_setWidth]
  split
  next hneg =>
    have hlt : s.toInt < 0 := BitVec.slt_iff_toInt_lt.mp hneg
    rw [BitVec.toNat_neg]
    split at htoInt <;> omega
  next hneg =>
    have hge : ¬ s.toInt < 0 := fun h => hneg (BitVec.slt_iff_toInt_lt.mpr h)
    split at htoInt <;> omega

section
variable (sa sb : Bool) (ma mb : Sig24)

/-- `rs` is the sign of the exact sum (R92). -/
theorem mat_rs : (mat sa sb ma mb).rs = decide (signedInt sa ma.toNat + signedInt sb mb.toNat < 0) := by
  rw [← signedSum_toInt]
  exact BitVec.slt_eq_decide

/-- `m` is the magnitude of the exact sum (R92). -/
theorem mat_m_toNat : (mat sa sb ma mb).m.toNat = (signedInt sa ma.toNat + signedInt sb mb.toNat).natAbs := by
  have hle := signedInt_add_natAbs_le sa sb ma.isLt mb.isLt
  rw [← signedSum_toInt] at hle ⊢
  exact sumMagnitude_toNat (by omega)

/-- `sum_zero` says whether the exact sum is 0 (R93). -/
theorem mat_sumZero : (mat sa sb ma mb).sumZero = decide (signedInt sa ma.toNat + signedInt sb mb.toNat = 0) := by
  rw [Bool.eq_iff_iff, decide_eq_true_iff, ← Int.natAbs_eq_zero, ← mat_m_toNat]
  exact beq_iff_eq.trans BitVec.toNat_inj.symm

end

/-! ### The normalizer, from registers to numbers (R97 to R102) -/

/-- The top bit of a number as a comparison. -/
theorem testBit_eq_decide_le {m i : Nat} (h : m < 2 ^ (i + 1)) : m.testBit i = decide (2 ^ i ≤ m) := by
  by_cases hm : 2 ^ i ≤ m
  · rw [decide_eq_true hm, Nat.testBit_of_two_pow_le_and_two_pow_add_one_gt hm h]
  · rw [decide_eq_false hm, Nat.testBit_lt_two_pow (Nat.lt_of_not_le hm)]

/-- The carry bit of a magnitude (R98). -/
theorem mag_bit24 (m : Mag25) : m.getLsbD 24 = decide (2 ^ 24 ≤ m.toNat) := by
  rw [← BitVec.testBit_toNat, testBit_eq_decide_le m.isLt]

/-- The leading bit of a magnitude without carry (R99). -/
theorem mag_bit23 {m : Mag25} (h : m.toNat < 2 ^ 24) : m.getLsbD 23 = decide (2 ^ 23 ≤ m.toNat) := by
  rw [← BitVec.testBit_toNat, testBit_eq_decide_le h]

/-- One turn of the listing's step 8 on a magnitude that is not normalized. -/
theorem listedNormalize_shift (fuel : Nat) {m : Nat} (e : Nat) (h : m < 2 ^ 23) :
    listedNormalize (fuel + 1) m e = if e ≤ 1 then none else listedNormalize fuel (m * 2) ((e - 1 : Nat) : Int) := by
  have hiff : (e : Int) - 1 ≤ 0 ↔ e ≤ 1 := by omega
  simp only [listedNormalize, Nat.testBit_lt_two_pow h, if_true, hiff]
  split
  · rfl
  · congr 1; omega

theorem listedNormalize_done (fuel : Nat) {m : Nat} (e : Int) (h : 2 ^ 23 ≤ m) (h' : m < 2 ^ 24) :
    listedNormalize (fuel + 1) m e = some (m, e) := by
  rw [listedNormalize, testBit_eq_decide_le h', decide_eq_true h]
  rfl

/-- The answer of the normalization loop in the listing's terms. -/
def NormRun.listed (r : NormRun) : Option (Nat × Int) := if r.unf then none else some (r.m.toNat, (r.e.toNat : Int))

theorem NormRun.listed_eq_none_iff {r : NormRun} : r.listed = none ↔ r.unf = true := by
  cases h : r.unf <;> simp [NormRun.listed, h]

theorem NormRun.listed_eq_some_iff {r : NormRun} {m : Nat} {e : Int} :
    r.listed = some (m, e) ↔ r.unf = false ∧ r.m.toNat = m ∧ (r.e.toNat : Int) = e := by
  cases h : r.unf <;> simp [NormRun.listed, h]

/-- The underflow test after a decrement, as a comparison of the exponent before it (R100). -/
theorem exp_pred_sle_zero {e : Exp10} (h : e.toNat ≤ 255) : (e - 1#10).sle 0#10 = decide (e.toNat ≤ 1) := by
  have hpred : (e - 1#10).toInt = (e.toNat : Int) - 1 := by
    rw [BitVec.toInt_sub, BitVec.toInt_eq_toNat_of_lt (by omega)]
    show ((e.toNat : Int) - 1).bmod (2 ^ 10) = _
    exact Int.bmod_eq_of_le (by omega) (by omega)
  rw [BitVec.sle_eq_decide, hpred, decide_eq_decide]
  show (e.toNat : Int) - 1 ≤ 0 ↔ e.toNat ≤ 1
  omega

/-- Turn by turn, the loop on registers is the loop on numbers. -/
theorem normLoop_listed (fuel k : Nat) {m : Mag25} {e : Exp10} (hm : m.toNat < 2 ^ 24) (he : e.toNat ≤ 255) :
    (normLoop fuel k m e).listed = listedNormalize fuel m.toNat e.toNat := by
  induction fuel generalizing k m e with
  | zero => rfl
  | succ fuel ih =>
    have hbit := mag_bit23 hm
    by_cases hnorm : 2 ^ 23 ≤ m.toNat
    · rw [normLoop_done _ _ _ _ (by rw [hbit, decide_eq_true hnorm]), listedNormalize_done _ _ hnorm hm]
      rfl
    · rw [decide_eq_false hnorm] at hbit
      have hlt : m.toNat < 2 ^ 23 := Nat.lt_of_not_le hnorm
      have hsle := exp_pred_sle_zero he
      rw [listedNormalize_shift _ _ hlt]
      by_cases hone : e.toNat ≤ 1
      · rw [normLoop_underflow _ _ _ _ hbit (by rw [hsle, decide_eq_true hone]), if_pos hone]
        rfl
      · have hm2 : (m <<< 1).toNat = m.toNat * 2 := by
          rw [BitVec.toNat_shiftLeft, Nat.shiftLeft_eq]
          omega
        have he1 : (e - 1#10).toNat = e.toNat - 1 := by bv_omega
        rw [normLoop_shift _ _ _ _ hbit (by rw [hsle, decide_eq_false hone]), if_neg hone,
          ih _ (by omega) (by omega), hm2, he1]

/-- `k` left shifts bring the leading 1 of `m` to bit 23 (R99, R102). -/
def NormalizedBy (m k : Nat) : Prop := 2 ^ 23 ≤ m * 2 ^ k ∧ m * 2 ^ k < 2 ^ 24

/-- A magnitude with its leading 1 at bit 23 needs no shift. -/
theorem normalizedBy_zero {m : Nat} (hlo : 2 ^ 23 ≤ m) (hhi : m < 2 ^ 24) : NormalizedBy m 0 := by
  rw [NormalizedBy, pow_zero, Nat.mul_one]
  exact ⟨hlo, hhi⟩

theorem NormalizedBy.one_le_iff {m k : Nat} (h : NormalizedBy m k) : 1 ≤ k ↔ m < 2 ^ 23 := by
  obtain ⟨hlo, hhi⟩ := h
  cases k with
  | zero => simpa using hlo
  | succ k =>
    have hk : 1 ≤ 2 ^ k := Nat.one_le_two_pow
    have hmk : m ≤ m * 2 ^ k := Nat.le_mul_of_pos_right m hk
    rw [pow_succ, ← Nat.mul_assoc] at hhi
    omega

/-- Any magnitude without a carry is normalized by some number of shifts below 24, as its bit length says (R102, R103). -/
theorem normalizedBy_log2 {m : Nat} (hm : m ≠ 0) (hlt : m < 2 ^ 24) : NormalizedBy m (23 - Nat.log2 m) := by
  have hlog : Nat.log2 m < 24 := (Nat.log2_lt hm).mpr hlt
  obtain ⟨hlo, hhi⟩ := (Nat.log2_eq_iff hm).mp rfl
  have hpos : 0 < 2 ^ (23 - Nat.log2 m) := by positivity
  refine ⟨?_, ?_⟩
  · calc 2 ^ 23 = 2 ^ Nat.log2 m * 2 ^ (23 - Nat.log2 m) := by rw [← pow_add]; congr 1; omega
      _ ≤ m * 2 ^ (23 - Nat.log2 m) := Nat.mul_le_mul_right _ hlo
  · calc m * 2 ^ (23 - Nat.log2 m) < 2 ^ (Nat.log2 m + 1) * 2 ^ (23 - Nat.log2 m) := Nat.mul_lt_mul_of_pos_right hhi hpos
      _ = 2 ^ 24 := by rw [← pow_add]; congr 1; omega

/-- What `k` left shifts make of a magnitude and an exponent: underflow if the exponent reaches 0 on the way (R100, R102). -/
def shiftedNorm (m k e : Nat) : ClosedNorm := if 1 ≤ k ∧ e ≤ k then .underflow else .normal (e - k) (m * 2 ^ k)

theorem shiftedNorm_zero (m e : Nat) : shiftedNorm m 0 e = .normal e m := by
  simp [shiftedNorm]

theorem shiftedNorm_succ (m k e : Nat) :
    shiftedNorm m (k + 1) e = if e ≤ 1 then .underflow else shiftedNorm (m * 2) k (e - 1) := by
  have hpow : m * 2 * 2 ^ k = m * 2 ^ (k + 1) := by rw [pow_succ']; ring
  have hsub : e - 1 - k = e - (k + 1) := by omega
  rw [shiftedNorm, shiftedNorm, hpow, hsub]
  by_cases he : e ≤ 1
  · rw [if_pos he, if_pos (by omega)]
  · rw [if_neg he, if_congr (by omega : 1 ≤ k + 1 ∧ e ≤ k + 1 ↔ 1 ≤ k ∧ e - 1 ≤ k) rfl rfl]

theorem closedNorm_of_carry {m : Nat} (e : Nat) (h : 2 ^ 24 ≤ m) :
    closedNorm m e = if 255 ≤ e + 1 then .overflow else .normal (e + 1) (m / 2) := if_pos h

theorem closedNorm_of_lt {m : Nat} (e : Nat) (h : m < 2 ^ 24) : closedNorm m e = shiftedNorm m (23 - Nat.log2 m) e :=
  if_neg (Nat.not_le_of_lt h)

/-- The answer of the closed form without a carry, in the listing's terms. -/
def ClosedNorm.listed : ClosedNorm → Option (Nat × Int)
  | .normal e m => some (m, (e : Int))
  | .overflow => none
  | .underflow => none

/-- The listing's step 8 in closed form (R102). -/
theorem listedNormalize_eq {fuel m k : Nat} (e : Nat) (h : NormalizedBy m k) (hfuel : k < fuel) :
    listedNormalize fuel m e = (shiftedNorm m k e).listed := by
  induction k generalizing fuel m e with
  | zero =>
    obtain ⟨fuel, rfl⟩ : ∃ f, fuel = f + 1 := ⟨fuel - 1, by omega⟩
    obtain ⟨hlo, hhi⟩ := h
    rw [pow_zero, Nat.mul_one] at hlo hhi
    rw [listedNormalize_done _ _ hlo hhi, shiftedNorm_zero]
    rfl
  | succ k ih =>
    obtain ⟨fuel, rfl⟩ : ∃ f, fuel = f + 1 := ⟨fuel - 1, by omega⟩
    have hnext : NormalizedBy (m * 2) k := by rwa [NormalizedBy, Nat.mul_assoc, ← pow_succ']
    rw [listedNormalize_shift _ _ (h.one_le_iff.mp (Nat.le_add_left 1 k)), shiftedNorm_succ]
    split
    · rfl
    · exact ih _ hnext (by omega)

/-- The outputs that answer the closed form's case (R96, R97); `nres` is claimed only where it is read. -/
def NuOut.Answers (o : NuOut) (rs : Bool) : ClosedNorm → Prop
  | .overflow => o.ovf = true ∧ o.unf = false
  | .underflow => o.ovf = false ∧ o.unf = true
  | .normal e m => o.ovf = false ∧ o.unf = false ∧ o.nres = assemble rs (BitVec.ofNat 8 e) (BitVec.ofNat 23 m)

/-- Field assembly takes the low bits of the two registers (R101). -/
theorem assembleResult_eq (rs : Bool) (e : Exp10) (m : Mag25) :
    assembleResult rs e m = assemble rs (BitVec.ofNat 8 e.toNat) (BitVec.ofNat 23 m.toNat) := by
  rw [assembleResult, BitVec.ofNat_toNat, BitVec.ofNat_toNat, BitVec.setWidth_eq_extractLsb' (by omega),
    BitVec.setWidth_eq_extractLsb' (by omega)]

/-- Steps 8 and 9 on registers answer the closed form (R99 to R102). -/
theorem nuNormalize_answers (rs : Bool) {m : Mag25} {e : Exp10} {k : Nat} (h : NormalizedBy m.toNat k) (hk : k < 512)
    (hm : m.toNat < 2 ^ 24) (he : e.toNat ≤ 255) : (nuNormalize rs m e).Answers rs (shiftedNorm m.toNat k e.toNat) := by
  have hrun : (normRun m e).listed = (shiftedNorm m.toNat k e.toNat).listed :=
    (normLoop_listed _ _ hm he).trans (listedNormalize_eq _ h hk)
  rw [nuNormalize]
  rw [shiftedNorm] at hrun ⊢
  split at hrun
  next hunf =>
    rw [if_pos hunf, if_pos (NormRun.listed_eq_none_iff.mp hrun)]
    exact ⟨rfl, rfl⟩
  next hnormal =>
    obtain ⟨hr, hm', he'⟩ := NormRun.listed_eq_some_iff.mp hrun
    rw [if_neg hnormal, if_neg (by simp [hr]), assembleResult_eq, hm', Int.ofNat_inj.mp he']
    exact ⟨rfl, rfl, rfl⟩

/-- The overflow test after a carry, as a comparison of the exponent before it (R98, decision D8). -/
theorem sle_exp_succ {e : Exp10} (h : e.toNat ≤ 255) : (255#10).sle (e + 1#10) = decide (255 ≤ e.toNat + 1) := by
  have hsucc : (e + 1#10).toNat = e.toNat + 1 := exp_succ_toNat (y := 256#10) (Nat.lt_succ_of_le h)
  rw [BitVec.sle_eq_decide, BitVec.toInt_eq_toNat_of_lt (x := e + 1#10) (by omega), hsucc, decide_eq_decide]
  show (255 : Int) ≤ ((e.toNat + 1 : Nat) : Int) ↔ _
  omega

/-- The normalizer on registers answers the closed form (R102). -/
theorem nu_answers (rs : Bool) {m : Mag25} {e : Exp10} (hm : m.toNat ≠ 0) (he : e.toNat ≤ 255) :
    (nu rs m e).Answers rs (closedNorm m.toNat e.toNat) := by
  have hlt := m.isLt
  rw [nu, mag_bit24]
  by_cases hcarry : 2 ^ 24 ≤ m.toNat
  · have hsucc : (e + 1#10).toNat = e.toNat + 1 := exp_succ_toNat (y := 256#10) (Nat.lt_succ_of_le he)
    rw [closedNorm_of_carry _ hcarry, decide_eq_true hcarry, if_pos rfl, sle_exp_succ he]
    by_cases hovf : 255 ≤ e.toNat + 1
    · rw [if_pos hovf, decide_eq_true hovf]
      exact ⟨rfl, rfl⟩
    · have hhalf : (m >>> 1).toNat = m.toNat / 2 := by rw [BitVec.toNat_ushiftRight, Nat.shiftRight_one]
      have hanswers := nuNormalize_answers rs (m := m >>> 1) (e := e + 1#10)
        (normalizedBy_zero (by omega) (by omega)) (by omega) (by omega) (by omega)
      rw [shiftedNorm_zero, hhalf, hsucc] at hanswers
      rw [if_neg hovf, decide_eq_false hovf]
      exact hanswers
  · have hlt' : m.toNat < 2 ^ 24 := Nat.lt_of_not_le hcarry
    rw [closedNorm_of_lt _ hlt', decide_eq_false hcarry]
    exact nuNormalize_answers rs (normalizedBy_log2 hm hlt') (by omega) hlt' he

/-! ### `fp_add` in closed form, result and tag (R56 to R60) -/

/-- The exact sum of the two aligned significands with their signs (R91). -/
def alignedSum (a b : Word) : Int := signedInt (signOf a) (alignedSig a b) + signedInt (signOf b) (alignedSig b a)

/-- The result and the tag that the normalizer's case stands for (R74, R75). -/
def normSelection (rs : Bool) : ClosedNorm → Selection
  | .overflow => ⟨infPattern rs, .overflow⟩
  | .underflow => ⟨zeroPattern, .underflow⟩
  | .normal e m => ⟨assemble rs (BitVec.ofNat 8 e) (BitVec.ofNat 23 m), .normal⟩

/-- The result and the tag of a sum `s` at the common exponent `e` (R73 to R75). -/
def sumSelection (s : Int) (e : Nat) : Selection :=
  if s = 0 then ⟨zeroPattern, .zeroSum⟩ else normSelection (decide (s < 0)) (closedNorm s.natAbs e)

/-- The result and the tag of two operands, free of loops (R60, R75). -/
def closedSelect (a b : Word) : Selection :=
  if isZero a then ⟨b, .zeroA⟩
  else if isZero b then ⟨a, .zeroB⟩
  else if expNat a + 24 ≤ expNat b then ⟨b, .neglA⟩
  else if expNat b + 24 ≤ expNat a then ⟨a, .neglB⟩
  else sumSelection (alignedSum a b) (commonExp a b)

theorem expDistance_le_of_not_negl {a b : Word} (hA : ¬ expNat a + 24 ≤ expNat b) (hB : ¬ expNat b + 24 ≤ expNat a) :
    expDistance a b ≤ 23 := by
  rw [expDistance_eq]
  omega

theorem commonExp_le (a b : Word) : commonExp a b ≤ 255 := Nat.max_le.mpr ⟨expNat_le a, expNat_le b⟩

theorem alignedSig_lt (a b : Word) : alignedSig a b < 2 ^ 24 := (Nat.div_le_self _ _).trans_lt (sigNat_bounds a).2

/-! #### The sub-units -/

theorem AlignRun.listed_eq_neglA_iff {r : AlignRun} : r.listed = .neglA ↔ r.tag = .neglA := by
  cases h : r.tag <;> simp [AlignRun.listed, h]

theorem AlignRun.listed_eq_neglB_iff {r : AlignRun} : r.listed = .neglB ↔ r.tag = .neglB := by
  cases h : r.tag <;> simp [AlignRun.listed, h]

theorem AlignRun.listed_eq_aligned_iff {r : AlignRun} {e ma mb : Nat} : r.listed = .aligned e ma mb ↔
    r.tag = .aligned ∧ r.regs.ea.toNat = e ∧ r.regs.ma.toNat = ma ∧ r.regs.mb.toNat = mb := by
  cases h : r.tag <;> simp [AlignRun.listed, h]

theorem eau_tagAl_of_neglA {a b : Word} (h : expNat a + 24 ≤ expNat b) : (eau a b).tagAl = .neglA := by
  rw [eau_tagAl, ← AlignRun.listed_eq_neglA_iff, alignRun_listed, closedAlign_neglA h]

theorem eau_tagAl_of_neglB {a b : Word} (h : expNat b + 24 ≤ expNat a) : (eau a b).tagAl = .neglB := by
  rw [eau_tagAl, ← AlignRun.listed_eq_neglB_iff, alignRun_listed, closedAlign_neglB h]

/-- The outputs of exponent_align_unit that are read under ALIGNED (R79, R84). -/
theorem eau_of_aligned {a b : Word} (h : expDistance a b ≤ 23) :
    (eau a b).tagAl = .aligned ∧ (eau a b).e.toNat = commonExp a b ∧
      (eau a b).ma.toNat = alignedSig a b ∧ (eau a b).mb.toNat = alignedSig b a := by
  obtain ⟨htag, he, hma, hmb⟩ := AlignRun.listed_eq_aligned_iff.mp ((alignRun_listed a b).trans (closedAlign_aligned h))
  rw [eau_aligned a b htag]
  exact ⟨rfl, he, hma, hmb⟩

/-- The outputs of mantissa_add_tree under ALIGNED (R92, R93). -/
theorem matOf_of_aligned {a b : Word} (h : expDistance a b ≤ 23) :
    (matOf a b).rs = decide (alignedSum a b < 0) ∧ (matOf a b).m.toNat = (alignedSum a b).natAbs ∧
      (matOf a b).sumZero = decide (alignedSum a b = 0) := by
  obtain ⟨-, -, hma, hmb⟩ := eau_of_aligned h
  rw [matOf, mat_rs, mat_m_toNat, mat_sumZero, hma, hmb, eau_sa, eau_sb]
  exact ⟨rfl, rfl, rfl⟩

/-- The outputs of normalizer_unit under ALIGNED, unless the sum is 0 (R102). -/
theorem nuOf_of_aligned {a b : Word} (h : expDistance a b ≤ 23) (hs : alignedSum a b ≠ 0) :
    (nuOf a b).Answers (matOf a b).rs (closedNorm (alignedSum a b).natAbs (commonExp a b)) := by
  obtain ⟨-, he, -, -⟩ := eau_of_aligned h
  obtain ⟨-, hm, -⟩ := matOf_of_aligned h
  have hle := commonExp_le a b
  rw [← hm, ← he]
  exact nu_answers _ (by omega) (by omega)

/-- The select half on two non-zero aligned operands whose sum is not 0 (R74). -/
theorem schSelect_of_answers (a b : Word) {o : NuOut} {rs : Bool} {c : ClosedNorm} (h : o.Answers rs c) :
    schSelect a b false false .aligned false o.ovf o.unf rs o.nres = normSelection rs c := by
  cases c with
  | overflow =>
    obtain ⟨ho, -⟩ := h
    rw [ho, schSelect_overflow, normSelection]
  | underflow =>
    obtain ⟨ho, hu⟩ := h
    rw [ho, hu, schSelect_underflow, normSelection]
  | normal e m =>
    obtain ⟨ho, hu, hn⟩ := h
    rw [ho, hu, schSelect_normal, hn, normSelection]

/-- The sub-units composed give the closed form, result and tag (R56, R57). -/
theorem fpSelect_eq_closedSelect (a b : Word) : fpSelect a b = closedSelect a b := by
  simp only [fpSelect, schDetect]
  rw [closedSelect]
  cases hza : isZero a with
  | true => exact schSelect_zeroA ..
  | false =>
    cases hzb : isZero b with
    | true => exact schSelect_zeroB ..
    | false =>
      by_cases hA : expNat a + 24 ≤ expNat b
      · rw [eau_tagAl_of_neglA hA, schSelect_neglA, if_pos hA]
        rfl
      by_cases hB : expNat b + 24 ≤ expNat a
      · rw [eau_tagAl_of_neglB hB, schSelect_neglB, if_neg hA, if_pos hB]
        rfl
      have hd := expDistance_le_of_not_negl hA hB
      obtain ⟨hrs, -, hzero⟩ := matOf_of_aligned hd
      rw [(eau_of_aligned hd).1, hzero, if_neg hA, if_neg hB, sumSelection]
      by_cases hs : alignedSum a b = 0
      · rw [decide_eq_true hs, schSelect_zeroSum, if_pos hs]
        rfl
      · rw [decide_eq_false hs, schSelect_of_answers a b (nuOf_of_aligned hd hs), if_neg hs, hrs]
        rfl

/-! #### The listing and the loop-free form -/

/-- A selection as the pair that the listing writes. -/
def Selection.pair (c : Selection) : Word × OutcomeTag := (c.result, c.tag)

/-- Steps 8 and 9 of the listing (R58) in closed form. -/
theorem listedFinish_eq (rs : Bool) {m k : Nat} (e : Nat) (h : NormalizedBy m k) (hk : k < 256) :
    listedFinish rs m e = (normSelection rs (shiftedNorm m k e)).pair := by
  rw [listedFinish, listedNormalize_eq e h hk, shiftedNorm]
  by_cases hunf : 1 ≤ k ∧ e ≤ k
  · rw [if_pos hunf]
    rfl
  · rw [if_neg hunf]
    simp only [ClosedNorm.listed, listedAssemble, BitVec.ofInt_natCast]
    rfl

/-- Steps 5 to 9 of the listing (R58), from the sum on. -/
def listedSum (s : Int) (e : Nat) : Word × OutcomeTag :=
  if s.natAbs = 0 then (0x00000000#32, .zeroSum)
  else if s.natAbs.testBit 24 = true then
    if (e : Int) + 1 ≥ 255 then (assemble (decide (s < 0)) 0xFF#8 0#23, .overflow)
    else listedFinish (decide (s < 0)) (s.natAbs / 2) ((e : Int) + 1)
  else listedFinish (decide (s < 0)) s.natAbs e

theorem listedAdd_eq_listedSum (sa sb : Bool) (e ma mb : Nat) :
    listedAdd sa sb e ma mb = listedSum (signedInt sa ma + signedInt sb mb) e := rfl

/-- Steps 5 to 9 of the listing in closed form. -/
theorem listedSum_eq {s : Int} (e : Nat) (hlt : s.natAbs < 2 ^ 25) : listedSum s e = (sumSelection s e).pair := by
  rw [listedSum, sumSelection]
  by_cases hs : s = 0
  · rw [if_pos (Int.natAbs_eq_zero.mpr hs), if_pos hs]
    rfl
  have hm : s.natAbs ≠ 0 := Int.natAbs_ne_zero.mpr hs
  rw [if_neg hm, if_neg hs, testBit_eq_decide_le hlt]
  by_cases hcarry : 2 ^ 24 ≤ s.natAbs
  · rw [decide_eq_true hcarry, if_pos rfl, closedNorm_of_carry _ hcarry]
    by_cases hovf : 255 ≤ e + 1
    · rw [if_pos hovf, if_pos (by omega)]
      rfl
    · have hhalf : NormalizedBy (s.natAbs / 2) 0 := normalizedBy_zero (by omega) (by omega)
      rw [if_neg hovf, if_neg (by omega), ← shiftedNorm_zero]
      exact listedFinish_eq _ (e + 1) hhalf (by omega)
  · have hlt' : s.natAbs < 2 ^ 24 := Nat.lt_of_not_le hcarry
    rw [decide_eq_false hcarry, closedNorm_of_lt _ hlt']
    exact listedFinish_eq _ e (normalizedBy_log2 hm hlt') (by omega)

theorem isZero_iff_extract (p : Word) : isZero p = true ↔ p.extractLsb' 0 31 = 0#31 := beq_iff_eq

/-- The consolidated listing in closed form, result and tag (R58). -/
theorem fpAddListing_eq_closedSelect (a b : Word) : fpAddListing a b = (closedSelect a b).pair := by
  rw [fpAddListing, closedSelect, listedAlign_eq_closedAlign]
  simp only [← isZero_iff_extract]
  by_cases hza : isZero a = true
  · rw [if_pos hza, if_pos hza, Selection.pair]
  by_cases hzb : isZero b = true
  · rw [if_neg hza, if_pos hzb, if_neg hza, if_pos hzb, Selection.pair]
  rw [if_neg hza, if_neg hzb, if_neg hza, if_neg hzb]
  by_cases hA : expNat a + 24 ≤ expNat b
  · rw [closedAlign_neglA hA, if_pos hA, Selection.pair]
  by_cases hB : expNat b + 24 ≤ expNat a
  · rw [closedAlign_neglB hB, if_neg hA, if_pos hB, Selection.pair]
  rw [closedAlign_aligned (expDistance_le_of_not_negl hA hB), if_neg hA, if_neg hB]
  have hsum := signedInt_add_natAbs_le (signOf a) (signOf b) (alignedSig_lt a b) (alignedSig_lt b a)
  exact (listedAdd_eq_listedSum ..).trans (listedSum_eq _ (by omega))

/-- The loop-free form (R60), from the sum on. -/
def closedSum (s : Int) (e : Nat) : Word :=
  if s.natAbs = 0 then 0x00000000#32
  else
    match closedNorm s.natAbs e with
    | .overflow => assemble (decide (s < 0)) 0xFF#8 0#23
    | .underflow => 0x00000000#32
    | .normal e' m' => assemble (decide (s < 0)) (BitVec.ofNat 8 e') (BitVec.ofNat 23 m')

theorem closedSum_eq (s : Int) (e : Nat) : closedSum s e = (sumSelection s e).result := by
  rw [closedSum, sumSelection]
  by_cases hs : s = 0
  · rw [if_pos (Int.natAbs_eq_zero.mpr hs), if_pos hs]
    rfl
  · rw [if_neg (Int.natAbs_ne_zero.mpr hs), if_neg hs]
    cases closedNorm s.natAbs e <;> rfl

/-- The loop-free form is the result of the closed form (R60). -/
theorem fpAddClosed_eq_closedSelect (a b : Word) : fpAddClosed a b = (closedSelect a b).result := by
  rw [fpAddClosed, closedSelect]
  simp only [← isZero_iff_extract]
  by_cases hza : isZero a = true
  · rw [if_pos hza, if_pos hza]
  by_cases hzb : isZero b = true
  · rw [if_neg hza, if_pos hzb, if_neg hza, if_pos hzb]
  rw [if_neg hza, if_neg hzb, if_neg hza, if_neg hzb]
  by_cases hA : expNat a + 24 ≤ expNat b
  · rw [closedAlign_neglA hA, if_pos hA]
  by_cases hB : expNat b + 24 ≤ expNat a
  · rw [closedAlign_neglB hB, if_neg hA, if_pos hB]
  rw [closedAlign_aligned (expDistance_le_of_not_negl hA hB), if_neg hA, if_neg hB]
  exact closedSum_eq (alignedSum a b) (commonExp a b)

/-- Settles O42: both are the closed form, in which the loops of both are replaced by R84 and R102. -/
theorem fpAddIsTheListing : Obligations.FpAddIsTheListing := by
  intro a b
  rw [fpAddListing_eq_closedSelect, fpAdd, outcomeTag, fpSelect_eq_closedSelect, Selection.pair]

/-- Settles O43. -/
theorem fpAddIsTheClosedForm : Obligations.FpAddIsTheClosedForm := by
  intro a b
  rw [fpAddListing_eq_closedSelect, fpAddClosed_eq_closedSelect, fpAdd, fpSelect_eq_closedSelect]
  exact ⟨rfl, rfl⟩

/-! ### The exits of `fp_add`, one lemma each (R75) -/

section
variable {a b : Word}

theorem fpSelect_zeroA (ha : isZero a = true) : fpSelect a b = ⟨b, .zeroA⟩ := by
  rw [fpSelect_eq_closedSelect, closedSelect, if_pos ha]

theorem fpSelect_zeroB (ha : isZero a = false) (hb : isZero b = true) : fpSelect a b = ⟨a, .zeroB⟩ := by
  rw [fpSelect_eq_closedSelect, closedSelect, ha, if_neg Bool.false_ne_true, if_pos hb]

/-- Two operands that are no zeros go on to the alignment. -/
theorem fpSelect_of_nonzero (ha : isZero a = false) (hb : isZero b = false) :
    fpSelect a b = if expNat a + 24 ≤ expNat b then ⟨b, .neglA⟩
      else if expNat b + 24 ≤ expNat a then ⟨a, .neglB⟩
      else sumSelection (alignedSum a b) (commonExp a b) := by
  rw [fpSelect_eq_closedSelect, closedSelect, ha, hb, if_neg Bool.false_ne_true, if_neg Bool.false_ne_true]

theorem fpSelect_neglA (ha : isZero a = false) (hb : isZero b = false) (h : expNat a + 24 ≤ expNat b) :
    fpSelect a b = ⟨b, .neglA⟩ := by
  rw [fpSelect_of_nonzero ha hb, if_pos h]

theorem fpSelect_neglB (ha : isZero a = false) (hb : isZero b = false) (h : expNat b + 24 ≤ expNat a) :
    fpSelect a b = ⟨a, .neglB⟩ := by
  rw [fpSelect_of_nonzero ha hb, if_neg (by omega), if_pos h]

theorem fpSelect_aligned (ha : isZero a = false) (hb : isZero b = false) (h : expDistance a b ≤ 23) :
    fpSelect a b = sumSelection (alignedSum a b) (commonExp a b) := by
  rw [expDistance_eq] at h
  rw [fpSelect_of_nonzero ha hb, if_neg (by omega), if_neg (by omega)]

end

/-- Everything `fp_add` can do (R75): a zero operand, a negligible one, or the sum of the aligned significands. -/
theorem fpSelect_cases (a b : Word) :
    (isZero a = true ∧ fpSelect a b = ⟨b, .zeroA⟩) ∨
    (isZero a = false ∧ isZero b = true ∧ fpSelect a b = ⟨a, .zeroB⟩) ∨
    (isZero a = false ∧ isZero b = false ∧ expNat a + 24 ≤ expNat b ∧ fpSelect a b = ⟨b, .neglA⟩) ∨
    (isZero a = false ∧ isZero b = false ∧ expNat b + 24 ≤ expNat a ∧ fpSelect a b = ⟨a, .neglB⟩) ∨
    (isZero a = false ∧ isZero b = false ∧ expDistance a b ≤ 23 ∧
      fpSelect a b = sumSelection (alignedSum a b) (commonExp a b)) := by
  cases ha : isZero a with
  | true => exact .inl ⟨rfl, fpSelect_zeroA ha⟩
  | false =>
    cases hb : isZero b with
    | true => exact .inr (.inl ⟨rfl, rfl, fpSelect_zeroB ha hb⟩)
    | false =>
      by_cases hA : expNat a + 24 ≤ expNat b
      · exact .inr (.inr (.inl ⟨rfl, rfl, hA, fpSelect_neglA ha hb hA⟩))
      by_cases hB : expNat b + 24 ≤ expNat a
      · exact .inr (.inr (.inr (.inl ⟨rfl, rfl, hB, fpSelect_neglB ha hb hB⟩)))
      have hd := expDistance_le_of_not_negl hA hB
      exact .inr (.inr (.inr (.inr ⟨rfl, rfl, hd, fpSelect_aligned ha hb hd⟩)))

theorem fpAdd_of_select {a b : Word} {c : Selection} (h : fpSelect a b = c) : fpAdd a b = c.result := congrArg _ h

theorem outcomeTag_of_select {a b : Word} {c : Selection} (h : fpSelect a b = c) : outcomeTag a b = c.tag := congrArg _ h

/-- What a sum of aligned significands can become (R73 to R75). -/
theorem sumSelection_cases (s : Int) (e : Nat) :
    (s = 0 ∧ sumSelection s e = ⟨zeroPattern, .zeroSum⟩) ∨
    (s ≠ 0 ∧ closedNorm s.natAbs e = .overflow ∧ sumSelection s e = ⟨infPattern (decide (s < 0)), .overflow⟩) ∨
    (s ≠ 0 ∧ closedNorm s.natAbs e = .underflow ∧ sumSelection s e = ⟨zeroPattern, .underflow⟩) ∨
    (s ≠ 0 ∧ ∃ e' m', closedNorm s.natAbs e = .normal e' m' ∧
      sumSelection s e = ⟨assemble (decide (s < 0)) (BitVec.ofNat 8 e') (BitVec.ofNat 23 m'), .normal⟩) := by
  by_cases hs : s = 0
  · exact .inl ⟨hs, if_pos hs⟩
  rw [sumSelection, if_neg hs]
  cases closedNorm s.natAbs e with
  | overflow => exact .inr (.inl ⟨hs, rfl, rfl⟩)
  | underflow => exact .inr (.inr (.inl ⟨hs, rfl, rfl⟩))
  | normal e' m' => exact .inr (.inr (.inr ⟨hs, e', m', rfl, rfl⟩))

/-- Every result is a returned operand, a zero, an infinity or NORMAL, with its tag (R75). -/
theorem fpAdd_kinds (a b : Word) :
    ((outcomeTag a b = .zeroA ∨ outcomeTag a b = .neglA) ∧ fpAdd a b = b) ∨
    ((outcomeTag a b = .zeroB ∨ outcomeTag a b = .neglB) ∧ fpAdd a b = a) ∨
    ((outcomeTag a b = .zeroSum ∨ outcomeTag a b = .underflow) ∧ fpAdd a b = 0x00000000#32) ∨
    (outcomeTag a b = .overflow ∧ ∃ rs, fpAdd a b = infPattern rs) ∨
    outcomeTag a b = .normal := by
  rw [outcomeTag, fpAdd]
  obtain ⟨-, hab⟩ | ⟨-, -, hab⟩ | ⟨-, -, -, hab⟩ | ⟨-, -, -, hab⟩ | ⟨-, -, -, hab⟩ := fpSelect_cases a b
  · exact .inl (by simp [hab])
  · exact .inr (.inl (by simp [hab]))
  · exact .inl (by simp [hab])
  · exact .inr (.inl (by simp [hab]))
  · rw [hab]
    obtain ⟨-, hs⟩ | ⟨-, -, hs⟩ | ⟨-, -, hs⟩ | ⟨-, e', m', -, hs⟩ := sumSelection_cases (alignedSum a b) (commonExp a b)
    · exact .inr (.inr (.inl (by simp [hs, zeroPattern])))
    · exact .inr (.inr (.inr (.inl ⟨by rw [hs], _, by rw [hs]⟩)))
    · exact .inr (.inr (.inl (by simp [hs, zeroPattern])))
    · exact .inr (.inr (.inr (.inr (by rw [hs]))))

/-- The result under ZERO_SUM and UNDERFLOW (R73, R75). -/
theorem fpAdd_of_zero_tag {a b : Word} (h : outcomeTag a b = .zeroSum ∨ outcomeTag a b = .underflow) :
    fpAdd a b = 0x00000000#32 := by
  obtain ⟨ht | ht, -⟩ | ⟨ht | ht, -⟩ | ⟨-, hz⟩ | ⟨ht, -⟩ | ht := fpAdd_kinds a b
  · simp [ht] at h
  · simp [ht] at h
  · simp [ht] at h
  · simp [ht] at h
  · exact hz
  · simp [ht] at h
  · simp [ht] at h

/-! ### Zero and negligible operands -/

/-- Settles O44. -/
theorem leftZeroIdentity : Obligations.LeftZeroIdentity :=
  fun _ => ⟨fpAdd_of_select (fpSelect_zeroA rfl), fpAdd_of_select (fpSelect_zeroA rfl)⟩

/-- A non-zero operand in the words of R62. -/
theorem isZero_eq_false_iff (p : Word) : isZero p = false ↔ p.extractLsb' 0 31 ≠ 0#31 := by
  rw [ne_eq, ← isZero_iff_extract, Bool.not_eq_true]

/-- Settles O45. -/
theorem rightZeroIdentity : Obligations.RightZeroIdentity := by
  intro a z hz
  refine ⟨fun ha => ?_, fun ha => ?_⟩
  · exact fpAdd_of_select (fpSelect_zeroB ((isZero_eq_false_iff a).mpr ha) hz)
  · exact fpAdd_of_select (fpSelect_zeroA ((isZero_iff_extract a).mpr ha))

/-- Settles O31: the two negligible exits, and under ALIGNED the leading 1 of `alignedSig`. -/
theorem negligibleOperandLaw : Obligations.NegligibleOperandLaw := by
  intro a b ha hb
  refine ⟨fun hd => ?_, fun hd => ?_⟩
  · rw [expDistance_eq] at hd
    show fpAdd a b = if expNat a < expNat b then b else a
    by_cases hlt : expNat a < expNat b
    · rw [if_pos hlt]
      exact fpAdd_of_select (fpSelect_neglA ha hb (by omega))
    · rw [if_neg hlt]
      exact fpAdd_of_select (fpSelect_neglB ha hb (by omega))
  · obtain ⟨htag, -, hma, hmb⟩ := eau_of_aligned hd
    rw [expDistance_eq] at hd ⊢
    rw [hma, hmb]
    refine ⟨htag, fun (hle : expNat a ≤ expNat b) => ?_, fun (hle : expNat b ≤ expNat a) => ?_⟩
    · rw [log2_alignedSig (by omega)]
      omega
    · rw [log2_alignedSig (by omega)]
      omega

/-! ### Commutativity (R63) -/

theorem commonExp_comm (a b : Word) : commonExp a b = commonExp b a := Nat.max_comm _ _

theorem alignedSum_comm (a b : Word) : alignedSum a b = alignedSum b a := Int.add_comm _ _

theorem expDistance_comm (a b : Word) : expDistance a b = expDistance b a := Nat.add_comm _ _

/-- Two zeros of the same sign are the same pattern (R45). -/
theorem eq_of_isZero_of_signOf_eq {a b : Word} (ha : isZero a = true) (hb : isZero b = true) (hs : signOf a = signOf b) :
    a = b := by
  obtain rfl | rfl := (isZero_iff a).mp ha
  · obtain rfl | rfl := (isZero_iff b).mp hb
    · rfl
    · cases hs
  · obtain rfl | rfl := (isZero_iff b).mp hb
    · cases hs
    · rfl

/-- Settles O46: a negligible operand is negligible on either side, and the sum of the aligned significands commutes. -/
theorem additionIsCommutative : Obligations.AdditionIsCommutative := by
  intro a b
  refine ⟨fun h => ?_, fun ha hb _ => ⟨fpAdd_of_select (fpSelect_zeroA ha), fpAdd_of_select (fpSelect_zeroA hb)⟩⟩
  obtain ⟨ha, hab⟩ | ⟨ha, hb, hab⟩ | ⟨ha, hb, hlt, hab⟩ | ⟨ha, hb, hlt, hab⟩ | ⟨ha, hb, hd, hab⟩ := fpSelect_cases a b
  · rw [fpAdd_of_select hab]
    cases hb : isZero b with
    | false => exact (fpAdd_of_select (fpSelect_zeroB hb ha)).symm
    | true =>
      have hs : signOf a = signOf b := not_not.mp fun hs => h ⟨ha, hb, hs⟩
      rw [fpAdd_of_select (fpSelect_zeroA hb)]
      exact (eq_of_isZero_of_signOf_eq ha hb hs).symm
  · rw [fpAdd_of_select hab, fpAdd_of_select (fpSelect_zeroA hb)]
  · rw [fpAdd_of_select hab, fpAdd_of_select (fpSelect_neglB hb ha hlt)]
  · rw [fpAdd_of_select hab, fpAdd_of_select (fpSelect_neglA hb ha hlt)]
  · rw [fpAdd, fpAdd, hab, fpSelect_aligned hb ha (expDistance_comm a b ▸ hd), alignedSum_comm, commonExp_comm]

/-! ### Flipping a sign (R64, R66) -/

section
variable (p : Word)

@[simp] theorem signOf_flip : signOf (p ^^^ signMask) = !signOf p := by
  simp [signOf, signMask]

@[simp] theorem expOf_flip : expOf (p ^^^ signMask) = expOf p := by
  rw [expOf, BitVec.extractLsb'_xor]
  exact BitVec.xor_zero

@[simp] theorem fracOf_flip : fracOf (p ^^^ signMask) = fracOf p := by
  rw [fracOf, BitVec.extractLsb'_xor]
  exact BitVec.xor_zero

@[simp] theorem isZero_flip : isZero (p ^^^ signMask) = isZero p := by
  rw [isZero, magnitudeBits, BitVec.extractLsb'_xor]
  exact congrArg (· == 0#31) BitVec.xor_zero

@[simp] theorem expNat_flip : expNat (p ^^^ signMask) = expNat p := congrArg BitVec.toNat (expOf_flip p)

@[simp] theorem sigNat_flip : sigNat (p ^^^ signMask) = sigNat p := by
  rw [sigNat, fracOf_flip, sigNat]

end

/-- The alignment does not read the signs (R80). -/
theorem alignedSig_congr {a b a' b' : Word} (hsig : sigNat a' = sigNat a) (ha : expNat a' = expNat a)
    (hb : expNat b' = expNat b) : alignedSig a' b' = alignedSig a b := by
  rw [alignedSig, hsig, ha, hb, alignedSig]

@[simp] theorem signedInt_not (neg : Bool) (m : Nat) : signedInt (!neg) m = -signedInt neg m := by
  cases neg <;> simp [signedInt]

/-- Settles O47: the twin has the same aligned significand, so the exact sum is 0. -/
theorem cancellationGivesZero : Obligations.CancellationGivesZero := by
  refine ⟨fun a h => ?_, by decide, by decide⟩
  have ha : isZero a = false := (isZero_eq_false_iff a).mpr h
  have hd : expDistance a (a ^^^ signMask) ≤ 23 := by
    rw [expDistance_eq, expNat_flip]
    omega
  have hsum : alignedSum a (a ^^^ signMask) = 0 := by
    rw [alignedSum, signOf_flip, signedInt_not,
      alignedSig_congr (a := a) (b := a ^^^ signMask) (sigNat_flip a) (expNat_flip a) (expNat_flip a).symm]
    exact Int.add_right_neg _
  rw [fpAdd_of_select (fpSelect_aligned ha ((isZero_flip a).trans ha) hd), hsum]
  rfl

/-- What flipping both signs does to a selection (R66): the tag stays, and the result is flipped unless it is the zero of
ZERO_SUM or UNDERFLOW. -/
def Selection.flipSign (c : Selection) : Selection :=
  ⟨if c.tag = .zeroSum ∨ c.tag = .underflow then c.result else c.result ^^^ signMask, c.tag⟩

theorem assemble_flip (s : Bool) (e : BitVec 8) (f : BitVec 23) : assemble s e f ^^^ signMask = assemble (!s) e f :=
  eq_of_fields _ _ (by simp) (by simp) (by simp)

theorem normSelection_not (rs : Bool) (c : ClosedNorm) : normSelection (!rs) c = (normSelection rs c).flipSign := by
  cases c with
  | overflow => simp [normSelection, Selection.flipSign, infPattern, assemble_flip]
  | underflow => rfl
  | normal e m => simp [normSelection, Selection.flipSign, assemble_flip]

/-- The negated sum has the same magnitude and the other sign (R92). -/
theorem sumSelection_neg (s : Int) (e : Nat) : sumSelection (-s) e = (sumSelection s e).flipSign := by
  rw [sumSelection, sumSelection]
  by_cases hs : s = 0
  · rw [if_pos hs, if_pos (Int.neg_eq_zero.mpr hs)]
    rfl
  · have hsign : decide (-s < 0) = !decide (s < 0) := by
      rw [← decide_not, decide_eq_decide]
      omega
    rw [if_neg hs, if_neg (mt Int.neg_eq_zero.mp hs), Int.natAbs_neg, hsign, normSelection_not]

theorem alignedSum_flip (a b : Word) : alignedSum (a ^^^ signMask) (b ^^^ signMask) = -alignedSum a b := by
  simp only [alignedSum, alignedSig, signOf_flip, expNat_flip, sigNat_flip, signedInt_not]
  exact (Int.neg_add).symm

/-- Flipping both signs takes the same exit (R66). -/
theorem fpSelect_flip (a b : Word) : fpSelect (a ^^^ signMask) (b ^^^ signMask) = (fpSelect a b).flipSign := by
  obtain ⟨ha, hab⟩ | ⟨ha, hb, hab⟩ | ⟨ha, hb, hlt, hab⟩ | ⟨ha, hb, hlt, hab⟩ | ⟨ha, hb, hd, hab⟩ := fpSelect_cases a b
  · rw [hab, fpSelect_zeroA (by simpa using ha)]
    rfl
  · rw [hab, fpSelect_zeroB (by simpa using ha) (by simpa using hb)]
    rfl
  · rw [hab, fpSelect_neglA (by simpa using ha) (by simpa using hb) (by simpa using hlt)]
    rfl
  · rw [hab, fpSelect_neglB (by simpa using ha) (by simpa using hb) (by simpa using hlt)]
    rfl
  · have hd' : expDistance (a ^^^ signMask) (b ^^^ signMask) ≤ 23 := by simpa [expDistance_eq] using hd
    rw [hab, fpSelect_aligned (by simpa using ha) (by simpa using hb) hd', alignedSum_flip, sumSelection_neg]
    simp only [commonExp, expNat_flip]

/-- Settles O48: the flipped pair takes the same exit, with the negated sum. -/
theorem signSymmetry : Obligations.SignSymmetry := by
  intro a b
  have htag : outcomeTag (a ^^^ signMask) (b ^^^ signMask) = outcomeTag a b  := by
    rw [outcomeTag_of_select (fpSelect_flip a b)]
    rfl
  refine ⟨htag, fun h => ⟨fpAdd_of_zero_tag (htag.symm ▸ h), fpAdd_of_zero_tag h⟩, fun hz hu => ?_⟩
  rw [fpAdd_of_select (fpSelect_flip a b)]
  exact if_neg (not_or.mpr ⟨hz, hu⟩)

/-! ### NORMAL results (R101, R102, R105) -/

/-- The two ways to a normal answer: one right shift after a carry, or some left shifts that leave the exponent above 0. -/
theorem closedNorm_eq_normal {m e e' m' : Nat} (hm : m ≠ 0) (h : closedNorm m e = .normal e' m') :
    (2 ^ 24 ≤ m ∧ e + 1 < 255 ∧ e' = e + 1 ∧ m' = m / 2) ∨
    (m < 2 ^ 24 ∧ ∃ k, NormalizedBy m k ∧ (1 ≤ k → k < e) ∧ e' = e - k ∧ m' = m * 2 ^ k) := by
  by_cases hcarry : 2 ^ 24 ≤ m
  · rw [closedNorm_of_carry _ hcarry] at h
    split at h
    next => cases h
    next hovf =>
      cases h
      exact .inl ⟨hcarry, by omega, rfl, rfl⟩
  · have hlt : m < 2 ^ 24 := Nat.lt_of_not_le hcarry
    rw [closedNorm_of_lt _ hlt, shiftedNorm] at h
    split at h
    next => cases h
    next hunf =>
      cases h
      exact .inr ⟨hlt, _, normalizedBy_log2 hm hlt, by omega, rfl, rfl⟩

/-- A normal magnitude has its leading 1 at bit 23 (R99, R101). -/
theorem closedNorm_normal_mag {m e e' m' : Nat} (hm : m ≠ 0) (hlt : m < 2 ^ 25) (h : closedNorm m e = .normal e' m') :
    2 ^ 23 ≤ m' ∧ m' < 2 ^ 24 := by
  obtain ⟨hcarry, -, -, rfl⟩ | ⟨-, k, hk, -, -, rfl⟩ := closedNorm_eq_normal hm h
  · omega
  · exact hk

/-- The value of a normal answer is that of the sum, but for the bit that a right shift drops (R69). -/
theorem closedNorm_normal_value {m e e' m' : Nat} (hm : m ≠ 0) (h : closedNorm m e = .normal e' m') :
    m' * 2 ^ e' ≤ m * 2 ^ e ∧ (m < 2 ^ 24 → m' * 2 ^ e' = m * 2 ^ e) := by
  obtain ⟨hcarry, -, rfl, rfl⟩ | ⟨-, k, -, hk, rfl, rfl⟩ := closedNorm_eq_normal hm h
  · refine ⟨?_, by omega⟩
    rw [pow_succ', ← Nat.mul_assoc]
    exact Nat.mul_le_mul_right _ (Nat.div_mul_le_self m 2)
  · have hle : k ≤ e := by omega
    have heq : m * 2 ^ k * 2 ^ (e - k) = m * 2 ^ e := by rw [Nat.mul_assoc, ← pow_add, Nat.add_sub_cancel' hle]
    exact ⟨heq.le, fun _ => heq⟩

/-- The exponent of a normal answer (R105); a common exponent of 0 needs a carry or a left shift. -/
theorem closedNorm_normal_exp {m e e' m' : Nat} (hm : m ≠ 0) (he : e ≤ 255) (hzero : e = 0 → m < 2 ^ 23 ∨ 2 ^ 24 ≤ m)
    (h : closedNorm m e = .normal e' m') : 1 ≤ e' ∧ e' ≤ 255 ∧ (e' = 255 → e = 255 ∧ 2 ^ 23 ≤ m ∧ m < 2 ^ 24) := by
  obtain ⟨hcarry, hlt, rfl, -⟩ | ⟨hlt, k, hk, hke, rfl, -⟩ := closedNorm_eq_normal hm h
  · omega
  · have hshift := hk.one_le_iff
    omega

/-- Two operands of exponent 0 carry or cancel their leading 1, since both significands have it (R80). -/
theorem alignedSum_of_commonExp_zero {a b : Word} (h : commonExp a b = 0) :
    (alignedSum a b).natAbs < 2 ^ 23 ∨ 2 ^ 24 ≤ (alignedSum a b).natAbs := by
  obtain ⟨ha, hb⟩ : expNat a = 0 ∧ expNat b = 0 := Nat.max_eq_zero_iff.mp h
  have hsa := sigNat_bounds a
  have hsb := sigNat_bounds b
  rw [alignedSum, alignedSig_of_le (by omega : expNat b ≤ expNat a), alignedSig_of_le (by omega : expNat a ≤ expNat b),
    signedInt_add_natAbs]
  split <;> omega

theorem alignedSum_natAbs_lt (a b : Word) : (alignedSum a b).natAbs < 2 ^ 25 := by
  have h := signedInt_add_natAbs_le (signOf a) (signOf b) (alignedSig_lt a b) (alignedSig_lt b a)
  rw [alignedSum]
  omega

/-- What the tag NORMAL says: the operands, the sum and the normalizer's answer. -/
theorem fpAdd_of_normal {a b : Word} (h : outcomeTag a b = .normal) :
    isZero a = false ∧ isZero b = false ∧ expDistance a b ≤ 23 ∧ alignedSum a b ≠ 0 ∧
    ∃ e' m', closedNorm (alignedSum a b).natAbs (commonExp a b) = .normal e' m' ∧
      fpAdd a b = assemble (decide (alignedSum a b < 0)) (BitVec.ofNat 8 e') (BitVec.ofNat 23 m') := by
  rw [outcomeTag] at h
  rw [fpAdd]
  obtain ⟨-, hab⟩ | ⟨-, -, hab⟩ | ⟨-, -, -, hab⟩ | ⟨-, -, -, hab⟩ | ⟨ha, hb, hd, hab⟩ := fpSelect_cases a b
  · simp [hab] at h
  · simp [hab] at h
  · simp [hab] at h
  · simp [hab] at h
  · rw [hab] at h ⊢
    obtain ⟨-, hs⟩ | ⟨-, -, hs⟩ | ⟨-, -, hs⟩ | ⟨hne, e', m', hc, hs⟩ := sumSelection_cases (alignedSum a b) (commonExp a b)
    · simp [hs] at h
    · simp [hs] at h
    · simp [hs] at h
    · exact ⟨ha, hb, hd, hne, e', m', hc, congrArg _ hs⟩

/-- The magnitude as a significand: its leading 1 is the implicit one (R46, R101). -/
theorem sigNat_assemble {rs : Bool} {e : BitVec 8} {m : Nat} (hlo : 2 ^ 23 ≤ m) (hhi : m < 2 ^ 24) :
    sigNat (assemble rs e (BitVec.ofNat 23 m)) = m := by
  rw [sigNat, fracOf_assemble, BitVec.toNat_ofNat]
  omega

theorem expNat_assemble {rs : Bool} {e : Nat} {f : BitVec 23} (h : e ≤ 255) :
    expNat (assemble rs (BitVec.ofNat 8 e) f) = e := by
  rw [expNat, expOf_assemble, BitVec.toNat_ofNat]
  omega

/-- The fields of a NORMAL result are the sign of the sum and the normalizer's answer (R101). -/
theorem fields_of_normal {a b : Word} (h : outcomeTag a b = .normal) :
    signOf (fpAdd a b) = decide (alignedSum a b < 0) ∧
      closedNorm (alignedSum a b).natAbs (commonExp a b) = .normal (expNat (fpAdd a b)) (sigNat (fpAdd a b)) := by
  obtain ⟨-, -, -, hs, e', m', hc, hres⟩ := fpAdd_of_normal h
  have hm := Int.natAbs_ne_zero.mpr hs
  obtain ⟨hlo, hhi⟩ := closedNorm_normal_mag hm (alignedSum_natAbs_lt a b) hc
  obtain ⟨-, hexp, -⟩ := closedNorm_normal_exp hm (commonExp_le a b) alignedSum_of_commonExp_zero hc
  rw [hres, signOf_assemble, expNat_assemble hexp, sigNat_assemble hlo hhi]
  exact ⟨rfl, hc⟩

/-- The exponent of a NORMAL result (R105). -/
theorem expNat_of_normal {a b : Word} (h : outcomeTag a b = .normal) :
    1 ≤ expNat (fpAdd a b) ∧ (expNat (fpAdd a b) = 255 →
      commonExp a b = 255 ∧ 2 ^ 23 ≤ (alignedSum a b).natAbs ∧ (alignedSum a b).natAbs < 2 ^ 24) := by
  obtain ⟨-, -, -, hs, -⟩ := fpAdd_of_normal h
  obtain ⟨hlo, -, htop⟩ := closedNorm_normal_exp (Int.natAbs_ne_zero.mpr hs) (commonExp_le a b)
    alignedSum_of_commonExp_zero (fields_of_normal h).2
  exact ⟨hlo, htop⟩

/-- A common exponent of 255 is that of an operand. -/
theorem expOf_eq_of_commonExp_eq {a b : Word} (h : commonExp a b = 255) : expOf a = 255#8 ∨ expOf b = 255#8 := by
  have hmax : expNat a = 255 ∨ expNat b = 255 := by
    have ha := expNat_le a
    have hb := expNat_le b
    rw [commonExp] at h
    omega
  exact hmax.imp BitVec.eq_of_toNat_eq BitVec.eq_of_toNat_eq

/-! ### Where results of biased exponent 0 and 255 come from (R67, R68) -/

theorem expOf_ne_zero_of_normal {a b : Word} (h : outcomeTag a b = .normal) : expOf (fpAdd a b) ≠ 0#8 := by
  intro he
  have hlo := (expNat_of_normal h).1
  rw [expNat, he] at hlo
  cases hlo

/-- Settles O49: of the five kinds of results, an infinity has exponent 255, and NORMAL is `expNat_of_normal`. -/
theorem outputRange : Obligations.OutputRange := by
  refine ⟨fun a b => ⟨fun h0 => ?_, expOf_ne_zero_of_normal, fun h255 => ?_⟩, by decide⟩
  · obtain hb | ha | hz | ⟨-, rs, hinf⟩ | hn := fpAdd_kinds a b
    · exact .inl hb
    · exact .inr (.inl ha)
    · exact .inr (.inr hz)
    · rw [hinf, infPattern, expOf_assemble] at h0
      cases h0
    · exact absurd h0 (expOf_ne_zero_of_normal hn)
  · obtain hb | ha | ⟨-, hz⟩ | hinf | hn := fpAdd_kinds a b
    · exact .inl hb
    · exact .inr (.inl ha)
    · rw [hz] at h255
      cases h255
    · exact .inr (.inr (.inl hinf))
    · have htop := (expNat_of_normal hn).2 (congrArg BitVec.toNat h255)
      exact .inr (.inr (.inr ⟨hn, expOf_eq_of_commonExp_eq htop.1⟩))

/-- A NaN pattern has biased exponent 255 (R44). -/
theorem expOf_of_nan {p : Word} (h : ieeeClass p = .nan) : expOf p = 255#8 := by
  rw [ieeeClass] at h
  split_ifs at h
  assumption

/-- A subnormal pattern has biased exponent 0 (R44). -/
theorem expOf_of_subnormal {p : Word} (h : ieeeClass p = .subnormal) : expOf p = 0#8 := by
  rw [ieeeClass] at h
  split_ifs at h
  assumption

theorem infPattern_cases (rs : Bool) : infPattern rs = 0x7F800000#32 ∨ infPattern rs = 0xFF800000#32 := by
  cases rs with
  | false => exact .inl rfl
  | true => exact .inr rfl

/-- Settles O50: a result of biased exponent 0 or 255 is an operand, a zero or an infinity, as O49 says. -/
theorem finiteInputClosure : Obligations.FiniteInputClosure := by
  intro a b ha hb
  obtain ⟨hzero, -, htop⟩ := outputRange.1 a b
  have hinf (h : expOf (fpAdd a b) = 255#8) : ∃ rs, fpAdd a b = infPattern rs := by
    obtain ⟨-, h'⟩ | ⟨-, h'⟩ | ⟨-, h'⟩ | ⟨-, h' | h'⟩ := htop h
    · exact absurd (h' ▸ h) hb
    · exact absurd (h' ▸ h) ha
    · exact h'
    · exact absurd h' ha
    · exact absurd h' hb
  refine ⟨?_, fun hnan => ?_, fun hsub => ?_⟩
  · by_cases h0 : expOf (fpAdd a b) = 0#8
    · obtain ⟨-, h'⟩ | ⟨-, h'⟩ | ⟨-, h'⟩ := hzero h0 <;> simp [h']
    by_cases h255 : expOf (fpAdd a b) = 255#8
    · obtain ⟨rs, h'⟩ := hinf h255
      obtain h'' | h'' := infPattern_cases rs <;> simp [h', h'']
    · have hlt : (expOf (fpAdd a b)).toNat < 256 := (expOf (fpAdd a b)).isLt
      have hne0 : (expOf (fpAdd a b)).toNat ≠ 0 := fun h => h0 (BitVec.eq_of_toNat_eq h)
      have hne255 : (expOf (fpAdd a b)).toNat ≠ 255 := fun h => h255 (BitVec.eq_of_toNat_eq h)
      omega
  · obtain ⟨rs, h'⟩ := hinf (expOf_of_nan hnan)
    rw [h'] at hnan
    cases rs <;> cases hnan
  · obtain ⟨-, h'⟩ | ⟨-, h'⟩ | ⟨-, h'⟩ := hzero (expOf_of_subnormal hsub)
    · exact .inr h'
    · exact .inl h'
    · rw [h'] at hsub
      cases hsub

/-! ### The direction of truncation (R69) -/

theorem signedInt_mul (neg : Bool) (m n : Nat) : signedInt neg m * n = signedInt neg (m * n) := by
  cases neg <;> simp [signedInt]

/-- The value of a pattern, scaled by 2^150 (R15; log entry 16), as a signed magnitude. -/
theorem scaledValue_eq (p : Word) : scaledValue p = signedInt (signOf p) (sigNat p * 2 ^ expNat p) := by
  rw [← signedInt_mul, scaledValue, significand_toNat]
  cases signOf p <;> simp [signedInt, sigNat, expNat]

theorem signedInt_sign {neg : Bool} {m : Nat} (h : 0 < m) : (signedInt neg m).sign = if neg then -1 else 1 := by
  cases neg with
  | false => exact Int.sign_eq_one_of_pos (by simpa [signedInt] using h)
  | true => exact Int.sign_eq_neg_one_of_neg (by simpa [signedInt] using h)

/-- Numbers that are positive together and negative together have the same sign. -/
theorem sign_eq_sign {x y : Int} (hpos : 0 < x ↔ 0 < y) (hneg : x < 0 ↔ y < 0) : x.sign = y.sign := by
  obtain h | h | h := Int.lt_trichotomy x 0
  · rw [Int.sign_eq_neg_one_of_neg h, Int.sign_eq_neg_one_of_neg (hneg.mp h)]
  · rw [h, show y = 0 by omega]
  · rw [Int.sign_eq_one_of_pos h, Int.sign_eq_one_of_pos (hpos.mp h)]

/-- Making the smaller of two magnitudes smaller still moves their sum toward zero if the signs are equal and away from zero if
they differ, and keeps its sign. -/
theorem signedInt_add_truncated {u u' v v' : Nat} (sa sb : Bool) (hu : u' ≤ u) (hv : v' ≤ v)
    (h : u' = u ∧ v' = v ∨ v' = v ∧ u < v ∨ u' = u ∧ v < u) :
    (sa = sb → (signedInt sa u' + signedInt sb v').natAbs ≤ (signedInt sa u + signedInt sb v).natAbs) ∧
    (sa ≠ sb → (signedInt sa u + signedInt sb v).natAbs ≤ (signedInt sa u' + signedInt sb v').natAbs) ∧
    (signedInt sa u' + signedInt sb v').sign = (signedInt sa u + signedInt sb v).sign := by
  rw [signedInt_add_natAbs, signedInt_add_natAbs]
  by_cases hs : sa = sb
  · rw [if_pos hs, if_pos hs, ← hs, signedInt_add_of_eq, signedInt_add_of_eq, Int.sign_mul, Int.sign_mul,
      sign_eq_sign (x := (u' : Int) + v') (y := (u : Int) + v) (by omega) (by omega)]
    exact ⟨fun _ => by omega, fun h => absurd rfl h, rfl⟩
  · rw [if_neg hs, if_neg hs, signedInt_add_of_ne hs, signedInt_add_of_ne hs, Int.sign_mul, Int.sign_mul,
      sign_eq_sign (x := (u' : Int) - v') (y := (u : Int) - v) (by omega) (by omega)]
    exact ⟨fun h => absurd h hs, fun _ => by omega, rfl⟩

/-- Alignment drops bits, so it does not raise the value (R83). -/
theorem alignedSig_mul_le (a b : Word) : alignedSig a b * 2 ^ commonExp a b ≤ sigNat a * 2 ^ expNat a := by
  have hexp : commonExp a b = expNat b - expNat a + expNat a := by
    rw [commonExp]
    omega
  rw [hexp, pow_add, ← Nat.mul_assoc]
  exact Nat.mul_le_mul_right _ (Nat.div_mul_le_self _ _)

/-- The operand with the larger exponent keeps its value. -/
theorem alignedSig_mul_of_le {a b : Word} (h : expNat b ≤ expNat a) :
    alignedSig a b * 2 ^ commonExp a b = sigNat a * 2 ^ expNat a := by
  rw [alignedSig_of_le h, commonExp, Nat.max_eq_left h]

/-- The operand with the larger exponent is the larger one: both significands lead with a 1 at bit 23 (R46). -/
theorem value_lt_of_expNat_lt {a b : Word} (h : expNat a < expNat b) : sigNat a * 2 ^ expNat a < sigNat b * 2 ^ expNat b :=
  calc sigNat a * 2 ^ expNat a
    _ < 2 ^ 24 * 2 ^ expNat a := Nat.mul_lt_mul_of_pos_right (sigNat_bounds a).2 (by positivity)
    _ = 2 ^ 23 * 2 ^ (expNat a + 1) := by ring
    _ ≤ 2 ^ 23 * 2 ^ expNat b := Nat.mul_le_mul_left _ (Nat.pow_le_pow_right (by omega) h)
    _ ≤ sigNat b * 2 ^ expNat b := Nat.mul_le_mul_right _ (sigNat_bounds b).1

/-- Alignment moves the exact sum toward zero for equal signs, away from zero for different signs, and keeps its sign. -/
theorem alignedSum_truncated (a b : Word) :
    let s := alignedSum a b * (2 ^ commonExp a b : Nat)
    (signOf a = signOf b → s.natAbs ≤ (scaledValue a + scaledValue b).natAbs) ∧
    (signOf a ≠ signOf b → (scaledValue a + scaledValue b).natAbs ≤ s.natAbs) ∧
    s.sign = (scaledValue a + scaledValue b).sign := by
  rw [alignedSum, Int.add_mul, signedInt_mul, signedInt_mul, scaledValue_eq, scaledValue_eq]
  have hb := alignedSig_mul_le b a
  rw [commonExp_comm] at hb
  refine signedInt_add_truncated _ _ (alignedSig_mul_le a b) hb ?_
  obtain hlt | heq | hlt := Nat.lt_trichotomy (expNat a) (expNat b)
  · exact .inr (.inl ⟨commonExp_comm a b ▸ alignedSig_mul_of_le hlt.le, value_lt_of_expNat_lt hlt⟩)
  · exact .inl ⟨alignedSig_mul_of_le heq.ge, commonExp_comm a b ▸ alignedSig_mul_of_le heq.le⟩
  · exact .inr (.inr ⟨alignedSig_mul_of_le hlt.le, value_lt_of_expNat_lt hlt⟩)

/-- Different signs never carry (R98). -/
theorem alignedSum_lt_of_signs_ne {a b : Word} (h : signOf a ≠ signOf b) : (alignedSum a b).natAbs < 2 ^ 24 := by
  have ha := alignedSig_lt a b
  have hb := alignedSig_lt b a
  rw [alignedSum, signedInt_add_natAbs, if_neg h]
  omega

/-- Settles O51: alignment truncates as `alignedSum_truncated` says; after it only a carry drops a bit, and that needs equal
signs. -/
theorem truncationDirection : Obligations.TruncationDirection := by
  intro a b _ _ h
  obtain ⟨hsign, hnorm⟩ := fields_of_normal h
  obtain ⟨-, -, -, hs, -⟩ := fpAdd_of_normal h
  obtain ⟨hle, heq⟩ := closedNorm_normal_value (Int.natAbs_ne_zero.mpr hs) hnorm
  obtain ⟨hsame, hdiff, hsum⟩ := alignedSum_truncated a b
  have hpos : 0 < sigNat (fpAdd a b) * 2 ^ expNat (fpAdd a b) :=
    Nat.mul_pos (by have := (sigNat_bounds (fpAdd a b)).1; omega) (by positivity)
  rw [Int.natAbs_mul, Int.natAbs_natCast] at hsame hdiff
  rw [scaledValue_eq (fpAdd a b), signedInt_natAbs]
  refine ⟨fun h => hle.trans (hsame h), fun h => (hdiff h).trans (heq (alignedSum_lt_of_signs_ne h)).ge, ?_⟩
  rw [← hsum, Int.sign_mul, Int.sign_natCast_of_ne_zero (by positivity), Int.mul_one, signedInt_sign hpos, hsign]
  obtain hneg | hge := Int.lt_or_le (alignedSum a b) 0
  · rw [decide_eq_true hneg, Int.sign_eq_neg_one_of_neg hneg]
    rfl
  · rw [decide_eq_false (Int.not_lt.mpr hge), Int.sign_eq_one_of_pos (by omega)]
    rfl

/-! ### ADD and the clock edge (R56, R59) -/

/-- Settles O5: the selection written out is `fpSelect` with its definitions unfolded, and `exec_add` names the next state. -/
theorem addWritesTheSum : Obligations.AddWritesTheSum :=
  ⟨fun a b s _ => exec_add a b s, fun a b s _ => exec_add a b s, by decide⟩

/-- Settles O7: at a completion edge both sides are `complete` with the sum of OPA and OPB. -/
theorem stepRunsTheDecodedRequest : Obligations.StepRunsTheDecodedRequest := by
  intro s _ hc
  exact ⟨(step_of_completesNext hc).trans (exec_request s.dropEvent.dropDraw s).symm, decode_requestWord s.opa s.opb⟩

/-- Before its last edge `done` is the timer's next choice (R23). -/
theorem State.done_of_draws {s : State} {d : Bool} {ds : List Bool} (ht : 1 < s.timer) (hd : s.doneDraws = d :: ds) :
    s.done = d := by
  simp [State.done, State.draw, hd, Nat.not_le.mpr ht]

/-- Settles O9: one lemma per kind of edge. -/
theorem clockEdgeBranches : Obligations.ClockEdgeBranches := by
  intro s p
  refine ⟨fun hr hv => clockEdge_of_reset hr fun _ => hv, fun _ => ⟨?_, ?_, ?_, ?_, ?_, ?_⟩⟩
  · exact fun a b hr hv hb ha hb' => clockEdge_of_accepting hr hv ha hb' hb
  · exact fun hr hv hb hd => (clockEdge_of_busy hr hv hb).trans (busyEdge_of_done hd)
  · exact fun hr hv hb hd => (clockEdge_of_busy hr hv hb).trans (busyEdge_of_not_done hd)
  · exact fun hr hv hb => clockEdge_of_no_offer hr hv hb
  · exact State.done_of_timer_le_one s
  · exact fun d ds => State.done_of_draws

/-- Settles O52. -/
theorem workedExamples : Obligations.WorkedExamples := by
  unfold Obligations.WorkedExamples
  decide

end Sys2Proof.Machine

namespace Sys2Proof.Machine

/-! ### The causes and the results of the outcome tags (R73 to R76) -/

/-- Settles O39. -/
theorem constantResults : Obligations.ConstantResults := ⟨rfl, rfl, rfl⟩

/-- The result that goes with each tag (R74, R75). -/
def OutcomeTag.resultFrom (a b : Word) (rs : Bool) (nres : Word) : OutcomeTag → Word
  | .zeroA => b
  | .zeroB => a
  | .neglA => b
  | .neglB => a
  | .zeroSum => zeroPattern
  | .overflow => infPattern rs
  | .underflow => zeroPattern
  | .normal => nres

/-- Every row of the select half's table pairs a tag with the result of that tag (R74). -/
theorem schSelect_result (a b : Word) (za zb : Bool) (t : AlignTag) (z o u rs : Bool) (n : Word) :
    (schSelect a b za zb t z o u rs n).result = (schSelect a b za zb t z o u rs n).tag.resultFrom a b rs n := by
  unfold schSelect
  split_ifs <;> rfl

theorem fpAdd_eq_resultFrom (a b : Word) :
    fpAdd a b = (outcomeTag a b).resultFrom a b (matOf a b).rs (nuOf a b).nres := schSelect_result ..

/-- Overflow needs a carry into an exponent of 255 or more (R98, R102). -/
theorem closedNorm_eq_overflow_iff (m e : Nat) : closedNorm m e = .overflow ↔ 2 ^ 24 ≤ m ∧ 255 ≤ e + 1 := by
  by_cases hcarry : 2 ^ 24 ≤ m
  · rw [closedNorm_of_carry _ hcarry, and_iff_right hcarry]
    split_ifs with htop <;> simp [htop]
  · refine iff_of_false ?_ fun h => hcarry h.1
    rw [closedNorm_of_lt _ (Nat.lt_of_not_le hcarry), shiftedNorm]
    split_ifs <;> simp

/-- Underflow needs no carry and at least as many left shifts as the exponent allows (R100, R102). -/
theorem closedNorm_eq_underflow_iff (m e : Nat) :
    closedNorm m e = .underflow ↔ m < 2 ^ 24 ∧ 1 ≤ 23 - Nat.log2 m ∧ e ≤ 23 - Nat.log2 m := by
  by_cases hlt : m < 2 ^ 24
  · rw [closedNorm_of_lt _ hlt, shiftedNorm, and_iff_right hlt]
    split_ifs with hshift <;> simp [hshift]
  · refine iff_of_false ?_ fun h => hlt h.1
    rw [closedNorm_of_carry _ (Nat.le_of_not_lt hlt)]
    split_ifs <;> simp

/-- A sum has none of the four tags that return an operand. -/
theorem sumSelection_tag_not_operand (s : Int) (e : Nat) :
    (sumSelection s e).tag ≠ .zeroA ∧ (sumSelection s e).tag ≠ .zeroB ∧
      (sumSelection s e).tag ≠ .neglA ∧ (sumSelection s e).tag ≠ .neglB := by
  obtain ⟨-, h⟩ | ⟨-, -, h⟩ | ⟨-, -, h⟩ | ⟨-, _, _, -, h⟩ := sumSelection_cases s e <;> simp [h]

/-- The cause of each of a sum's tags, NORMAL being what is left (R75). -/
theorem sumSelection_tag_iff (s : Int) (e : Nat) :
    ((sumSelection s e).tag = .zeroSum ↔ s = 0) ∧
    ((sumSelection s e).tag = .overflow ↔ s ≠ 0 ∧ closedNorm s.natAbs e = .overflow) ∧
    ((sumSelection s e).tag = .underflow ↔ s ≠ 0 ∧ closedNorm s.natAbs e = .underflow) := by
  obtain ⟨hs, h⟩ | ⟨hs, hc, h⟩ | ⟨hs, hc, h⟩ | ⟨hs, _, _, hc, h⟩ := sumSelection_cases s e
  · rw [h]
    simp [hs]
  · simp [h, hs, hc]
  · simp [h, hs, hc]
  · simp [h, hs, hc]

/-- The cause of each tag that returns an operand (R75). -/
theorem outcomeTag_operand_iff (a b : Word) :
    (outcomeTag a b = .zeroA ↔ isZero a = true) ∧
    (outcomeTag a b = .zeroB ↔ isZero a = false ∧ isZero b = true) ∧
    (outcomeTag a b = .neglA ↔ isZero a = false ∧ isZero b = false ∧ expNat a + 24 ≤ expNat b) ∧
    (outcomeTag a b = .neglB ↔ isZero a = false ∧ isZero b = false ∧ expNat b + 24 ≤ expNat a) := by
  rw [outcomeTag]
  obtain ⟨ha, h⟩ | ⟨ha, hb, h⟩ | ⟨ha, hb, hlt, h⟩ | ⟨ha, hb, hlt, h⟩ | ⟨ha, hb, hd, h⟩ := fpSelect_cases a b
  · simp [h, ha]
  · simp [h, ha, hb]
  · have hB : ¬ expNat b + 24 ≤ expNat a := by omega
    simp [h, ha, hb, hlt, hB]
  · have hA : ¬ expNat a + 24 ≤ expNat b := by omega
    simp [h, ha, hb, hlt, hA]
  · rw [expDistance_eq] at hd
    have hA : ¬ expNat a + 24 ≤ expNat b := by omega
    have hB : ¬ expNat b + 24 ≤ expNat a := by omega
    simp [h, ha, hb, hA, hB, sumSelection_tag_not_operand]

/-- The cause of each tag of two aligned operands, in the magnitude of the sum and the common exponent (R75). -/
theorem outcomeTag_aligned_iff {a b : Word} (ha : isZero a = false) (hb : isZero b = false) (hd : expDistance a b ≤ 23) :
    (outcomeTag a b = .zeroSum ↔ (matOf a b).m.toNat = 0) ∧
    (outcomeTag a b = .overflow ↔ 2 ^ 24 ≤ (matOf a b).m.toNat ∧ 255 ≤ commonExp a b + 1) ∧
    (outcomeTag a b = .underflow ↔ (matOf a b).m.toNat ≠ 0 ∧ (matOf a b).m.toNat < 2 ^ 24 ∧
      1 ≤ 23 - Nat.log2 (matOf a b).m.toNat ∧ commonExp a b ≤ 23 - Nat.log2 (matOf a b).m.toNat) := by
  obtain ⟨hzero, hovf, hunf⟩ := sumSelection_tag_iff (alignedSum a b) (commonExp a b)
  rw [outcomeTag_of_select (fpSelect_aligned ha hb hd), (matOf_of_aligned hd).2.1, hzero, hovf, hunf,
    closedNorm_eq_overflow_iff, closedNorm_eq_underflow_iff, ← Int.natAbs_ne_zero, ← Int.natAbs_eq_zero]
  exact ⟨Iff.rfl, and_iff_right_of_imp fun h => by omega, Iff.rfl⟩

/-- Settles O40: the tags that return an operand, those of a sum, and the table of results. -/
theorem outcomeTagsByCause : Obligations.OutcomeTagsByCause := by
  intro a b
  obtain ⟨hzeroA, hzeroB, hneglA, hneglB⟩ := outcomeTag_operand_iff a b
  refine ⟨hzeroA, hzeroB, hneglA, hneglB, outcomeTag_aligned_iff, ?_⟩
  rw [fpAdd_eq_resultFrom]
  cases outcomeTag a b <;> rfl

/-- A negligible operand leaves a result that is no zero (R45, R65). -/
theorem isZero_fpAdd_of_negl {a b : Word} (h : outcomeTag a b = .neglA ∨ outcomeTag a b = .neglB) :
    isZero (fpAdd a b) = false := by
  obtain ⟨-, -, hneglA, hneglB⟩ := outcomeTag_operand_iff a b
  rw [fpAdd_eq_resultFrom]
  obtain h | h := h
  · rw [h]
    exact (hneglA.mp h).2.1
  · rw [h]
    exact (hneglB.mp h).1

/-- Settles O41: of the results of biased exponent 0 (O49), a negligible operand leaves no zero, and the sums give
`0x00000000`. -/
theorem signOfZeroResults : Obligations.SignOfZeroResults := by
  refine fun a b => ⟨fpAdd_of_zero_tag, fun hres => ?_⟩
  have hnegl (h : outcomeTag a b = .neglA ∨ outcomeTag a b = .neglB) : False := by
    have hzero := isZero_fpAdd_of_negl h
    rw [hres] at hzero
    cases hzero
  obtain ⟨ht | ht, -⟩ | ⟨ht | ht, -⟩ | ⟨-, hz⟩ := (outputRange.1 a b).1 (congrArg expOf hres)
  · exact .inl ht
  · exact (hnegl (.inl ht)).elim
  · exact .inr ht
  · exact (hnegl (.inr ht)).elim
  · rw [hres] at hz
    cases hz

end Sys2Proof.Machine

namespace Sys2Proof.Machine

/-! ### The alignment's outputs in the words of R84 -/

/-- The aligned significand in the words of R84: shifted by the distance if the exponent is the smaller one. -/
theorem alignedSig_eq_ite (a b : Word) :
    alignedSig a b =
      if expNat a < expNat b then (significand a).toNat / 2 ^ expDistance a b else (significand a).toNat := by
  rw [significand_toNat, expDistance_eq]
  split
  next hlt => rw [Nat.sub_eq_zero_of_le hlt.le, Nat.zero_add, alignedSig, sigNat]
  next hge => rw [alignedSig_of_le (Nat.le_of_not_lt hge), sigNat]

/-- Settles O29: the two negligible exits, and under ALIGNED the outputs as `eau_of_aligned` gives them. -/
theorem alignmentClosedForm : Obligations.AlignmentClosedForm := by
  intro a b
  refine ⟨fun (hlt : expNat a < expNat b) hd => ?_, fun (hlt : expNat b < expNat a) hd => ?_, fun hd => ?_⟩
  · rw [expDistance_eq] at hd
    exact eau_tagAl_of_neglA (by omega)
  · rw [expDistance_eq] at hd
    exact eau_tagAl_of_neglB (by omega)
  · obtain ⟨htag, he, hma, hmb⟩ := eau_of_aligned (Nat.le_of_lt_succ hd)
    refine ⟨htag, he, hma.trans (alignedSig_eq_ite a b), ?_⟩
    rw [hmb, expDistance_comm a b]
    exact alignedSig_eq_ite b a

/-! ### The number of iterations (R85) -/

/-- How many turns raise an exponent from `x` to `y` and halve `m` each time, if the turn that makes `m` 0 is the last
(R81, R82). -/
def shiftTurns (x y m : Nat) : Nat := min (y - x) (Nat.log2 m + 1)

theorem shiftTurns_of_le {x y : Nat} (m : Nat) (h : y ≤ x) : shiftTurns x y m = 0 := by
  rw [shiftTurns, Nat.sub_eq_zero_of_le h, Nat.zero_min]

theorem shiftTurns_last {x y m : Nat} (h : x < y) (hm : m / 2 = 0) : shiftTurns x y m = 1 := by
  rw [shiftTurns, Nat.log2_def, if_neg (by omega)]
  omega

theorem shiftTurns_next {x y m : Nat} (h : x < y) (hm : m / 2 ≠ 0) :
    shiftTurns x y m = shiftTurns (x + 1) y (m / 2) + 1 := by
  rw [shiftTurns, shiftTurns, Nat.log2_def, if_pos (by omega)]
  omega

/-- The turns of the loop: those that shift operand a and those that shift operand b, of which one kind does not occur. -/
theorem alignLoop_iters {fuel : Nat} (k : Nat) {r : AlignRegs}
    (hfuel : (r.ea.toNat - r.eb.toNat) + (r.eb.toNat - r.ea.toNat) ≤ fuel) :
    (alignLoop fuel k r).iters =
      k + shiftTurns r.ea.toNat r.eb.toNat r.ma.toNat + shiftTurns r.eb.toNat r.ea.toNat r.mb.toNat := by
  induction fuel generalizing k r with
  | zero =>
    rw [alignLoop_zero, shiftTurns_of_le _ (by omega), shiftTurns_of_le _ (by omega)]
    rfl
  | succ fuel ih =>
    obtain hlt | heq | hgt := Nat.lt_trichotomy r.ea.toNat r.eb.toNat
    · have hult : r.ea.ult r.eb = true := BitVec.ult_iff_toNat_lt.mpr hlt
      have hsucc := exp_succ_toNat hlt
      rw [shiftTurns_of_le _ hlt.le]
      by_cases hm : r.ma >>> 1 = 0#24
      · rw [alignLoop_neglA _ _ _ hult hm, shiftTurns_last hlt ((ushiftRight_one_eq_zero_iff _).mp hm)]
      · have hnext := ih (k + 1) (r := r.shiftA)
        simp only [AlignRegs.shiftA_ea, AlignRegs.shiftA_eb, AlignRegs.shiftA_ma, hsucc, BitVec.toNat_ushiftRight,
          Nat.shiftRight_one, shiftTurns_of_le _ (Nat.succ_le_of_lt hlt)] at hnext
        rw [alignLoop_shiftA _ _ _ hult hm, hnext (by omega),
          shiftTurns_next hlt (mt (ushiftRight_one_eq_zero_iff _).mpr hm)]
        omega
    · rw [alignLoop_equal _ _ _ (BitVec.eq_of_toNat_eq heq), shiftTurns_of_le _ heq.ge, shiftTurns_of_le _ heq.le]
      rfl
    · have hne : r.ea ≠ r.eb := fun h => hgt.ne' (congrArg BitVec.toNat h)
      have hult : r.ea.ult r.eb = false := by simpa [BitVec.ult] using hgt.le
      have hsucc := exp_succ_toNat hgt
      rw [shiftTurns_of_le _ hgt.le]
      by_cases hm : r.mb >>> 1 = 0#24
      · rw [alignLoop_neglB _ _ _ hne hult hm, shiftTurns_last hgt ((ushiftRight_one_eq_zero_iff _).mp hm)]
      · have hnext := ih (k + 1) (r := r.shiftB)
        simp only [AlignRegs.shiftB_ea, AlignRegs.shiftB_eb, AlignRegs.shiftB_mb, hsucc, BitVec.toNat_ushiftRight,
          Nat.shiftRight_one, shiftTurns_of_le _ (Nat.succ_le_of_lt hgt)] at hnext
        rw [alignLoop_shiftB _ _ _ hne hult hm, hnext (by omega),
          shiftTurns_next hgt (mt (ushiftRight_one_eq_zero_iff _).mpr hm)]
        omega

/-- The leading 1 of a significand is at bit 23 (R46). -/
theorem log2_sigNat (p : Word) : Nat.log2 (sigNat p) = 23 := by
  obtain ⟨hlo, hhi⟩ := sigNat_bounds p
  exact (Nat.log2_eq_iff (by omega)).mpr ⟨hlo, hhi⟩

/-- Settles O30: a significand has 24 bits to lose, and 255 turns cover every distance of two 8-bit exponents. -/
theorem alignmentIterationCount : Obligations.AlignmentIterationCount := by
  intro a b
  have ha := expNat_le a
  have hb := expNat_le b
  have hea : (unpack a b).ea.toNat = expNat a := workExp_toNat a
  have heb : (unpack a b).eb.toNat = expNat b := workExp_toNat b
  have hma : (unpack a b).ma.toNat = sigNat a := significand_toNat a
  have hmb : (unpack a b).mb.toNat = sigNat b := significand_toNat b
  rw [alignIterations, alignRun, alignLoop_iters 0 (by omega), hea, heb, hma, hmb, shiftTurns, shiftTurns, log2_sigNat,
    log2_sigNat, expDistance_eq]
  omega

/-! ### The algorithm without the negligible-operand exit (R87) -/

/-- The loop that shifts to the end in closed form. -/
theorem alignToTheEnd_eq {fuel ea eb : Nat} (ma mb : Nat) (hfuel : (ea - eb) + (eb - ea) ≤ fuel) :
    alignToTheEnd fuel ea eb ma mb = (max ea eb, ma / 2 ^ (eb - ea), mb / 2 ^ (ea - eb)) := by
  induction fuel generalizing ea eb ma mb with
  | zero =>
    obtain rfl : ea = eb := by omega
    simp [alignToTheEnd]
  | succ fuel ih =>
    rw [alignToTheEnd]
    obtain hlt | rfl | hgt := Nat.lt_trichotomy ea eb
    · rw [if_pos hlt, ih _ _ (by omega), half_div_two_pow_sub_succ ma hlt, Nat.max_eq_right hlt, Nat.max_eq_right hlt.le,
        Nat.sub_eq_zero_of_le hlt, Nat.sub_eq_zero_of_le hlt.le]
    · simp
    · rw [if_neg hgt.not_gt, if_pos hgt, ih _ _ (by omega), half_div_two_pow_sub_succ mb hgt, Nat.max_eq_left hgt,
        Nat.max_eq_left hgt.le, Nat.sub_eq_zero_of_le hgt, Nat.sub_eq_zero_of_le hgt.le]

/-- Without the exit every pair is answered by the sum of its aligned significands (R87). -/
theorem fpAddWithoutExit_eq (a b : Word) :
    fpAddWithoutExit a b = (sumSelection (alignedSum a b) (commonExp a b)).result := by
  have ha := expNat_le a
  have hb := expNat_le b
  rw [fpAddWithoutExit, alignToTheEnd_eq _ _ (by omega)]
  exact congrArg Prod.fst (listedSum_eq (commonExp a b) (alignedSum_natAbs_lt a b))

/-- A negligible operand adds nothing to the exact sum (R84, R87). -/
theorem alignedSum_of_negl {a b : Word} (h : expNat a + 24 ≤ expNat b) :
    alignedSum a b = signedInt (signOf b) (sigNat b) := by
  have hgone : alignedSig a b = 0 := (sigNat_div_eq_zero_iff a _).mpr (by omega)
  rw [alignedSum, hgone, alignedSig_of_le (by omega : expNat a ≤ expNat b)]
  simp [signedInt]

/-- The sign of a signed magnitude that is not 0 (R92). -/
theorem decide_signedInt_neg {neg : Bool} {m : Nat} (h : 0 < m) : decide (signedInt neg m < 0) = neg := by
  cases neg <;> simp [signedInt, h]

/-- The fraction field is the significand without its bit 23 (R46, R101). -/
theorem ofNat_sigNat (p : Word) : BitVec.ofNat 23 (sigNat p) = fracOf p := by
  apply BitVec.eq_of_toNat_eq
  have hfrac : (fracOf p).toNat < 2 ^ 23 := (fracOf p).isLt
  rw [BitVec.toNat_ofNat, sigNat]
  omega

/-- A significand alone is normalized as it stands, and step 9 rebuilds the pattern bit for bit (R87). -/
theorem sumSelection_of_operand (p : Word) :
    sumSelection (signedInt (signOf p) (sigNat p)) (expNat p) = ⟨p, .normal⟩ := by
  obtain ⟨hlo, hhi⟩ := sigNat_bounds p
  have hpos : 0 < sigNat p := by omega
  have hne : signedInt (signOf p) (sigNat p) ≠ 0 := by
    rw [← Int.natAbs_ne_zero, signedInt_natAbs]
    exact hpos.ne'
  rw [sumSelection, if_neg hne, signedInt_natAbs, closedNorm_of_lt _ hhi, log2_sigNat, Nat.sub_self, shiftedNorm_zero,
    normSelection, decide_signedInt_neg hpos, ofNat_sigNat, expNat, BitVec.ofNat_toNat, BitVec.setWidth_eq, assemble_fields]

/-- The sum with a negligible operand is the other operand (R87). -/
theorem sumSelection_of_negl {a b : Word} (h : expNat a + 24 ≤ expNat b) :
    sumSelection (alignedSum a b) (commonExp a b) = ⟨b, .normal⟩ := by
  rw [alignedSum_of_negl h, commonExp, Nat.max_eq_right (by omega), sumSelection_of_operand]

/-- Settles O32: a negligible operand leaves the other one on either path, and without one `fp_add` takes no exit. -/
theorem earlyExitDoesNotChangeTheResult : Obligations.EarlyExitDoesNotChangeTheResult := by
  intro a b ha hb
  rw [fpAddWithoutExit_eq, fpAdd, fpSelect_of_nonzero ha hb]
  split_ifs with hA hB
  · rw [sumSelection_of_negl hA]
  · rw [alignedSum_comm, commonExp_comm, sumSelection_of_negl hB]
  · rfl

end Sys2Proof.Machine

namespace Sys2Proof.Machine

/-! ### The outputs of mantissa_add_tree (R91 to R93) -/

/-- Settles O33: the 27 bits hold the exact sum, and `rs` and `m` are its sign and its magnitude. -/
theorem signedSumIsExact : Obligations.SignedSumIsExact := by
  intro sa sb ma mb
  refine ⟨signedSum_toInt sa sb ma mb, signedInt_add_natAbs_le sa sb ma.isLt mb.isLt, ?_, mat_m_toNat sa sb ma mb⟩
  rw [mat_rs, decide_eq_true_iff]
  rfl

/-- The tag ALIGNED says that neither operand is negligible (R84). -/
theorem expDistance_le_of_aligned {a b : Word} (h : (eau a b).tagAl = .aligned) : expDistance a b ≤ 23 := by
  refine expDistance_le_of_not_negl (fun hA => ?_) fun hB => ?_
  · rw [eau_tagAl_of_neglA hA] at h
    cases h
  · rw [eau_tagAl_of_neglB hB] at h
    cases h

/-- Two magnitudes, the first not 0, cancel exactly if they are equal and have different signs (R93). -/
theorem signedInt_add_eq_zero_iff {sa sb : Bool} {ma mb : Nat} (h : ma ≠ 0) :
    signedInt sa ma + signedInt sb mb = 0 ↔ ma = mb ∧ sa ≠ sb := by
  rw [← Int.natAbs_eq_zero, signedInt_add_natAbs]
  split
  next heq => exact iff_of_false (by omega) fun hne => hne.2 heq
  next hne =>
    rw [and_iff_left hne]
    omega

/-- A significand that is not shifted away is not 0 (R84). -/
theorem alignedSig_ne_zero {a b : Word} (h : expDistance a b ≤ 23) : alignedSig a b ≠ 0 := by
  rw [expDistance_eq] at h
  exact mt (sigNat_div_eq_zero_iff a _).mp (by omega)

/-- Settles O34: under ALIGNED no significand is 0, so only a cancellation gives the sum 0. -/
theorem zeroSumOnlyByCancellation : Obligations.ZeroSumOnlyByCancellation := by
  intro a b htag
  have hd := expDistance_le_of_aligned htag
  obtain ⟨-, -, hma, hmb⟩ := eau_of_aligned hd
  obtain ⟨-, -, hsum⟩ := matOf_of_aligned hd
  have hmag : (matOf a b).sumZero = true ↔ (matOf a b).m = 0#25 := beq_iff_eq
  refine ⟨hmag, ?_, fun ha hb hz => ?_⟩
  · rw [hsum, decide_eq_true_iff, ← BitVec.toNat_inj, hma, hmb]
    exact signedInt_add_eq_zero_iff (alignedSig_ne_zero hd)
  · obtain ⟨hcause, -⟩ := outcomeTag_aligned_iff ha hb hd
    have ht : outcomeTag a b = .zeroSum := hcause.mpr (congrArg BitVec.toNat (hmag.mp hz))
    exact ⟨fpAdd_of_zero_tag (.inl ht), ht⟩

end Sys2Proof.Machine

namespace Sys2Proof.Machine

/-! ### The normalizer's closed form and its shifts (R97 to R103) -/

/-- Settles O35: its claim for each case of the closed form is `NuOut.Answers`, unfolded. -/
theorem normalizerClosedForm : Obligations.NormalizerClosedForm :=
  fun rs _ _ hlo _ he => nu_answers rs (Nat.ne_of_gt hlo) he

/-- One left shift on the register, short of the carry bit. -/
theorem mag_shiftLeft_one_toNat {m : Mag25} (h : m.toNat < 2 ^ 24) : (m <<< 1).toNat = m.toNat * 2 := by
  rw [BitVec.toNat_shiftLeft, Nat.shiftLeft_eq]
  omega

/-- One left shift leaves one shift fewer to do. -/
theorem NormalizedBy.shift {m k : Nat} (h : NormalizedBy m (k + 1)) : NormalizedBy (m * 2) k := by
  rwa [NormalizedBy, Nat.mul_assoc, ← pow_succ']

/-- The loop ends after as many shifts as bring the leading 1 to bit 23, or earlier by underflow, whatever the exponent and
the fuel are (R99, R100, R103). -/
theorem normLoop_iters_le {fuel : Nat} (n : Nat) {m : Mag25} (e : Exp10) {k : Nat} (h : NormalizedBy m.toNat k) :
    (normLoop fuel n m e).iters ≤ n + k := by
  induction fuel generalizing n m e k with
  | zero => exact Nat.le_add_right n k
  | succ fuel ih =>
    have hlt : m.toNat < 2 ^ 24 := (Nat.le_mul_of_pos_right _ (by positivity)).trans_lt h.2
    have hbit := mag_bit23 hlt
    cases k with
    | zero =>
      have hnorm : ¬ m.toNat < 2 ^ 23 := mt h.one_le_iff.mpr (by omega)
      rw [normLoop_done _ _ _ _ (by rw [hbit, decide_eq_true (Nat.le_of_not_lt hnorm)])]
      exact Nat.le_refl n
    | succ k =>
      have hlow : m.toNat < 2 ^ 23 := h.one_le_iff.mp (Nat.le_add_left 1 k)
      rw [decide_eq_false (Nat.not_le_of_lt hlow)] at hbit
      cases hunf : (e - 1#10).sle 0#10 with
      | true =>
        rw [normLoop_underflow _ _ _ _ hbit hunf]
        exact Nat.add_le_add_left (Nat.le_add_left 1 k) n
      | false =>
        rw [normLoop_shift _ _ _ _ hbit hunf]
        have hnext := ih (n + 1) (e - 1#10) ((mag_shiftLeft_one_toNat hlt).symm ▸ h.shift)
        omega

/-- No left shift after a carry: the right shift has brought the leading 1 to bit 23 (R103). -/
theorem leftShifts_of_carry {m : Mag25} (e : Exp10) (h : m.getLsbD 24 = true) : leftShifts m e = 0 := by
  have hlt := m.isLt
  have hcarry : 2 ^ 24 ≤ m.toNat := of_decide_eq_true ((mag_bit24 m).symm.trans h)
  have hhalf : (m >>> 1).toNat = m.toNat / 2 := by rw [BitVec.toNat_ushiftRight, Nat.shiftRight_one]
  rw [leftShifts, if_pos h]
  split
  · rfl
  · exact Nat.le_zero.mp (normLoop_iters_le 0 (e + 1#10) (normalizedBy_zero (by omega) (by omega)))

/-- Without a carry the bit length of the magnitude bounds the left shifts (R103). -/
theorem leftShifts_le_of_no_carry {m : Mag25} (e : Exp10) (hm : m ≠ 0#25) (h : m.getLsbD 24 = false) :
    leftShifts m e ≤ 23 - Nat.log2 m.toNat := by
  have hlt : m.toNat < 2 ^ 24 := Nat.lt_of_not_le (of_decide_eq_false ((mag_bit24 m).symm.trans h))
  have hne : m.toNat ≠ 0 := fun h0 => hm (BitVec.eq_of_toNat_eq h0)
  rw [leftShifts, h, if_neg Bool.false_ne_true, ← Nat.zero_add (23 - _)]
  exact normLoop_iters_le 0 e (normalizedBy_log2 hne hlt)

/-- Only the path that does not normalize raises `ovf` (R98, R100). -/
theorem nu_unf_of_ovf {rs : Bool} {m : Mag25} {e : Exp10} (h : (nu rs m e).ovf = true) : (nu rs m e).unf = false := by
  rw [nu] at h ⊢
  split_ifs at h ⊢
  · rfl
  · rw [nuNormalize_ovf] at h
    cases h
  · rw [nuNormalize_ovf] at h
    cases h

/-- Settles O36: a carry leaves no left shift, the bit length bounds them otherwise, and `ovf` excludes `unf`. -/
theorem normalizerIterationBound : Obligations.NormalizerIterationBound := by
  intro rs m e
  refine ⟨fun hm => ?_, leftShifts_of_carry e, fun ⟨hovf, hunf⟩ => ?_⟩
  · cases hcarry : m.getLsbD 24 with
    | true => exact (leftShifts_of_carry e hcarry).trans_le (Nat.zero_le 23)
    | false => exact (leftShifts_le_of_no_carry e hm hcarry).trans (Nat.sub_le 23 _)
  · rw [nu_unf_of_ovf hovf] at hunf
    cases hunf

/-! ### The exponents of results (R98, R105) -/

/-- Settles O37: the exponent 255 takes a sum whose leading 1 is at bit 23 already, at the common exponent 255. -/
theorem normalResultExponent : Obligations.NormalResultExponent := by
  intro a b h
  obtain ⟨hlo, htop⟩ := expNat_of_normal h
  refine ⟨hlo, fun h255 => ?_⟩
  obtain ⟨hexp, hmin, hmax⟩ := htop h255
  obtain ⟨-, -, hd, -⟩ := fpAdd_of_normal h
  obtain ⟨-, he, -⟩ := eau_of_aligned hd
  obtain ⟨-, hm, -⟩ := matOf_of_aligned hd
  rw [← hm] at hmin hmax
  refine ⟨he.trans hexp, ?_, ?_, ?_⟩
  · rw [mag_bit24, decide_eq_false (Nat.not_le_of_lt hmax)]
  · rw [mag_bit23 hmax, decide_eq_true hmin]
  · exact (expOf_eq_of_commonExp_eq hexp).imp (congrArg BitVec.toNat) (congrArg BitVec.toNat)

/-- A zero has biased exponent 0 (R45). -/
theorem isZero_of_expNat_ne_zero {p : Word} (h : expNat p ≠ 0) : isZero p = false := by
  cases hz : isZero p with
  | false => rfl
  | true =>
    obtain rfl | rfl := (isZero_iff p).mp hz
    · exact absurd rfl h
    · exact absurd rfl h

/-- Magnitudes of the same sign add. -/
theorem signedInt_add_same (neg : Bool) (m n : Nat) : signedInt neg m + signedInt neg n = signedInt neg (m + n) := by
  rw [signedInt_add_of_eq, ← Nat.cast_add, signedInt_mul, Nat.one_mul]

/-- Equal exponents leave both significands whole, and with equal signs they add (R84, R91). -/
theorem alignedSum_of_same {a b : Word} (he : expNat a = expNat b) (hs : signOf a = signOf b) :
    alignedSum a b = signedInt (signOf a) (sigNat a + sigNat b) := by
  rw [alignedSum, alignedSig_of_le he.le, alignedSig_of_le he.ge, ← hs, signedInt_add_same]

/-- A carry into an exponent of 255 or more gives the infinity of the sum's sign (R98, decision D8). -/
theorem sumSelection_overflow (neg : Bool) {m e : Nat} (hm : 2 ^ 24 ≤ m) (he : 255 ≤ e + 1) :
    sumSelection (signedInt neg m) e = ⟨infPattern neg, .overflow⟩ := by
  have hpos : 0 < m := by omega
  have hne : signedInt neg m ≠ 0 := Int.natAbs_ne_zero.mp ((signedInt_natAbs neg m).trans_ne hpos.ne')
  rw [sumSelection, if_neg hne, signedInt_natAbs, (closedNorm_eq_overflow_iff m e).mpr ⟨hm, he⟩, normSelection,
    decide_signedInt_neg hpos]

/-- Settles O38: two leading 1s of the same sign carry, and the carry raises the exponent 254 to 255. -/
theorem largestExponentsOverflow : Obligations.LargestExponentsOverflow := by
  intro a b (ha : expNat a = 254) (hb : expNat b = 254) hs
  have hd : expDistance a b ≤ 23 := by
    rw [expDistance_eq]
    omega
  have hexp : 255 ≤ commonExp a b + 1 := by
    rw [commonExp]
    omega
  have hcarry : 2 ^ 24 ≤ sigNat a + sigNat b := by
    have hsa := (sigNat_bounds a).1
    have hsb := (sigNat_bounds b).1
    omega
  have hsel : fpSelect a b = ⟨infPattern (signOf a), .overflow⟩ := by
    rw [fpSelect_aligned (isZero_of_expNat_ne_zero (by omega)) (isZero_of_expNat_ne_zero (by omega)) hd,
      alignedSum_of_same (ha.trans hb.symm) hs, sumSelection_overflow _ hcarry hexp]
  exact ⟨fpAdd_of_select hsel, outcomeTag_of_select hsel⟩

end Sys2Proof.Machine

namespace Sys2Proof.Machine

/-! ### Answers, loss of power, and banks (R107, R115, R117, R126) -/

/-- A step at a loss of power draws every register anew (R117). -/
theorem step_of_powerLoss {s : State} (h : s.nextEvent = .powerLoss) : step s = .next s.dropEvent.unspecified :=
  step_of_nextEvent h

/-- Before the first reset an undriven control port is answered by a free draw (R123; log entry 3). -/
theorem clockEdge_of_undriven {p : Ports} {s : State}
    (hu : p.rst = .undriven ∨ p.rst = .low ∧ p.inValid = .undriven) (hs : s.resetSeen = false) :
    clockEdge p s = .next s.unspecified := by
  obtain hr | ⟨hr, hv⟩ := hu
  · simp [clockEdge, undrivenEdge, hr, hs]
  · simp [clockEdge, undrivenEdge, hr, hv, hs]

/-- An edge without reset at which `in_valid` is driven has an answer, if at an accepting edge the operands are driven too. -/
theorem clockEdge_answered_of_low {p : Ports} {s : State} (hr : p.rst = .low) (hv : p.inValid ≠ .undriven)
    (hops : p.inValid = .high → s.busy = false → p.inA.isSome = true ∧ p.inB.isSome = true) :
    ∃ t, clockEdge p s = .next t := by
  cases hb : s.busy with
  | true =>
    obtain ⟨t, ht, -⟩ := clockEdge_of_busy_keeps_operands hr hv hb
    exact ⟨t, ht⟩
  | false =>
    cases hvalid : p.inValid with
    | undriven => exact absurd hvalid hv
    | low => exact ⟨s, clockEdge_of_no_offer hr hvalid hb⟩
    | high =>
      obtain ⟨hasome, hbsome⟩ := hops hvalid hb
      obtain ⟨a, ha⟩ := Option.isSome_iff_exists.mp hasome
      obtain ⟨b, hb'⟩ := Option.isSome_iff_exists.mp hbsome
      exact ⟨s.accept a b, clockEdge_of_accepting hr hvalid ha hb' hb⟩

/-- An edge at which the host keeps R126 has an answer (R118). -/
theorem clockEdge_answered_of_defined {p : Ports} {s : State} (h : p.defined s) : ∃ t, clockEdge p s = .next t := by
  obtain ⟨hports, hops⟩ := h
  cases hr : p.rst with
  | high => exact ⟨s.resetEdge, clockEdge_of_reset hr fun hs => (hports hs).2⟩
  | undriven =>
    have hs : s.resetSeen = false := Bool.eq_false_iff.mpr fun hs => (hports hs).1 hr
    exact ⟨s.unspecified, clockEdge_of_undriven (.inl hr) hs⟩
  | low =>
    by_cases hv : p.inValid = .undriven
    · have hs : s.resetSeen = false := Bool.eq_false_iff.mpr fun hs => (hports hs).2 hv
      exact ⟨s.unspecified, clockEdge_of_undriven (.inr ⟨hr, hv⟩) hs⟩
    · exact clockEdge_answered_of_low hr hv (hops hr)

/-- Settles O16: the type of faults is empty (R107); a loss of power is always answered, and an edge by
`clockEdge_answered_of_defined`. -/
theorem everyStepHasANextStateOrIsRefused : Obligations.EveryStepHasANextStateOrIsRefused := by
  refine fun s => ⟨nofun, fun h => ?_⟩
  cases hev : s.nextEvent with
  | powerLoss => exact ⟨_, step_of_powerLoss hev⟩
  | edge p =>
    have hp : p.defined s := by simpa only [State.hostDefined, hev] using h
    rw [step_of_nextEvent hev]
    exact clockEdge_answered_of_defined (s := s.dropEvent) hp

theorem State.registersReset_resetEdge (s : State) : s.resetEdge.registersReset := ⟨rfl, rfl, rfl, rfl, rfl, rfl⟩

/-- Settles O25: the loss of power forgets the reset seen before it, so the reset edge after it is answered whatever `in_valid`
is. -/
theorem resetAfterPowerLossSettlesTheRegisters : Obligations.ResetAfterPowerLossSettlesTheRegisters := by
  intro s p rest hs hr
  have hloss : step s = .next s.dropEvent.unspecified := step_of_powerLoss (s.nextEvent_cons _ _ hs)
  have hnext : s.dropEvent.unspecified.nextEvent = .edge p := State.nextEvent_cons _ _ rest (by simp [hs])
  have hreset : step s.dropEvent.unspecified = .next s.dropEvent.unspecified.dropEvent.resetEdge := by
    rw [step_of_nextEvent hnext]
    exact clockEdge_of_reset hr nofun
  refine ⟨s.dropEvent.unspecified.dropEvent.resetEdge, ?_, State.registersReset_resetEdge _, rfl, by simp [hs]⟩
  rw [run_of_step 1 hloss, run_of_step 0 hreset, run_zero]

/-- A position without an instance does nothing (log entry 15). -/
theorem bankStep_of_none {k : Nat} {bank : List State} (h : bank[k]? = none) : bankStep k bank = .next bank := by
  simp only [bankStep, h]

/-- An instance that can step takes its new state in the bank (R115). -/
theorem bankStep_of_step {k : Nat} {bank : List State} {s s' : State} (h : bank[k]? = some s) (hs : step s = .next s') :
    bankStep k bank = .next (bank.set k s') := by
  simp only [bankStep, h, hs]

/-- Everything a step of a bank with an answer can do (R115; log entry 15). -/
theorem bankStep_cases {k : Nat} {bank bank' : List State} (h : bankStep k bank = .next bank') :
    (bank[k]? = none ∧ bank' = bank) ∨
    (∃ s s', bank[k]? = some s ∧ step s = .next s' ∧ bank' = bank.set k s') := by
  cases hk : bank[k]? with
  | none =>
    rw [bankStep_of_none hk] at h
    cases h
    exact .inl ⟨rfl, rfl⟩
  | some s =>
    cases hs : step s with
    | next s' =>
      rw [bankStep_of_step hk hs] at h
      cases h
      exact .inr ⟨s, s', rfl, hs, rfl⟩
    | fault r => cases r
    | refused r => simp [bankStep, hk, hs] at h

/-- A step of a bank leaves its length and every other instance alone (R115). -/
theorem bankStep_frame {k : Nat} {bank bank' : List State} (h : bankStep k bank = .next bank') :
    bank'.length = bank.length ∧ ∀ j, j ≠ k → bank'[j]? = bank[j]? := by
  obtain ⟨-, rfl⟩ | ⟨s, s', -, -, rfl⟩ := bankStep_cases h
  · exact ⟨rfl, fun _ _ => rfl⟩
  · exact ⟨List.length_set, fun j hj => List.getElem?_set_ne hj.symm⟩

/-- A step of a bank runs the instance at its position, if there is one (R115). -/
theorem bankStep_steps_instance {k : Nat} {bank bank' : List State} {s : State} (h : bankStep k bank = .next bank')
    (hk : bank[k]? = some s) : ∃ s', step s = .next s' ∧ bank'[k]? = some s' := by
  obtain ⟨hnone, -⟩ | ⟨u, s', hu, hs, rfl⟩ := bankStep_cases h
  · simp [hk] at hnone
  · obtain rfl : u = s := Option.some.inj (hu.symm.trans hk)
    obtain ⟨hlt, -⟩ := List.getElem?_eq_some_iff.mp hk
    exact ⟨s', hs, List.getElem?_set_self hlt⟩

/-- Steps of two positions of a bank commute: either changes nothing, or each writes its own instance (R115). -/
theorem bankStep_comm {j k : Nat} {bank x y : List State} (hjk : j ≠ k) (hx : bankStep j bank = .next x)
    (hy : bankStep k bank = .next y) : ∃ z, bankStep k x = .next z ∧ bankStep j y = .next z := by
  have hxk : x[k]? = bank[k]? := (bankStep_frame hx).2 k hjk.symm
  have hyj : y[j]? = bank[j]? := (bankStep_frame hy).2 j hjk
  obtain ⟨hj, rfl⟩ | ⟨s, s', hj, hs, hxset⟩ := bankStep_cases hx
  · exact ⟨y, hy, bankStep_of_none (hyj.trans hj)⟩
  · obtain ⟨hk, rfl⟩ | ⟨u, u', hk, hu, rfl⟩ := bankStep_cases hy
    · exact ⟨x, bankStep_of_none (hxk.trans hk), hx⟩
    · refine ⟨x.set k u', bankStep_of_step (hxk.trans hk) hu, ?_⟩
      rw [bankStep_of_step (hyj.trans hj) hs, hxset, List.set_comm _ _ hjk]

/-- Settles O53: the frame, the step of the instance itself, and two steps that write different positions. -/
theorem instancesAreIndependent : Obligations.InstancesAreIndependent := by
  refine ⟨fun k bank bank' _ h => ?_, fun j k bank x y _ hjk => bankStep_comm hjk⟩
  obtain ⟨hlength, hothers⟩ := bankStep_frame h
  exact ⟨hlength, hothers, fun s => bankStep_steps_instance h⟩

end Sys2Proof.Machine

namespace Sys2Proof.Machine

/-! ### Reset edges (R119 to R121) -/

/-- The step at a reset edge at which the host keeps R126 (R119). -/
theorem step_of_reset {s : State} {p : Ports} (hp : s.nextEvent = .edge p) (hr : p.rst = .high)
    (hv : s.resetSeen = true → p.inValid ≠ .undriven) : step s = .next s.dropEvent.resetEdge := by
  rw [step_of_nextEvent hp]
  exact clockEdge_of_reset hr hv

/-- Settles O10: the step is the reset edge, which writes every register. -/
theorem resetEdgeWinsFromAnyState : Obligations.ResetEdgeWinsFromAnyState :=
  fun s _ hp hr hv => ⟨_, step_of_reset hp hr hv, s.dropEvent.registersReset_resetEdge, rfl, rfl, rfl⟩

/-- More reset edges repeat the assignment of the first one (R121). -/
theorem run_more_resetEdges (s : State) (l : List Ports) (rest : List Event)
    (hl : ∀ p ∈ l, p.rst = .high ∧ p.inValid ≠ .undriven) :
    run l.length { s.resetEdge with events := l.map Event.edge ++ rest } = .next { s.resetEdge with events := rest } := by
  induction l with
  | nil => rfl
  | cons p l ih =>
    obtain ⟨⟨hr, hv⟩, hl⟩ := List.forall_mem_cons.mp hl
    rw [List.length_cons, run_of_step _ (step_of_reset (p := p) rfl hr fun _ => hv)]
    exact ih hl

/-- Settles O11: after the first reset edge, by `run_more_resetEdges`. -/
theorem oneResetEdgeIsEnough : Obligations.OneResetEdgeIsEnough := by
  intro s l rest hne hl hs
  refine ⟨?_, rfl, ?_⟩
  · cases l with
    | nil => exact absurd rfl hne
    | cons p l =>
      obtain ⟨⟨hr, hv⟩, hl⟩ := List.forall_mem_cons.mp hl
      have hdrop : s.dropEvent.resetEdge = { s.resetEdge with events := l.map Event.edge ++ rest } := by
        simp [State.dropEvent, State.resetEdge, hs]
      rw [List.length_cons, run_of_step _ (step_of_reset (s.nextEvent_cons _ _ hs) hr fun _ => hv), hdrop]
      exact run_more_resetEdges s l rest hl
  · rintro a b more rfl
    exact step_of_acceptsNext ⟨Ports.offering a b, rfl, rfl, rfl, rfl, rfl, rfl⟩

/-- What every step from a state with `Q` keeps, a run keeps as long as its states have `Q`. -/
theorem run_keeps_while {P Q : State → Prop} (hstep : ∀ u t, P u → Q u → step u = .next t → P t) {n : Nat} {s t : State}
    (hs : P s) (hQ : ∀ j u, j < n → run j s = .next u → Q u) (h : run n s = .next t) : P t := by
  induction n generalizing t with
  | zero =>
    cases h
    exact hs
  | succ n ih =>
    obtain ⟨u, hu, ht⟩ := run_last h
    exact hstep u t (ih (fun j v hj => hQ j v (hj.trans n.lt_succ_self)) hu) (hQ n u n.lt_succ_self hu) ht

/-- What holds of the states a run reaches from its first step on holds of the states reached from where that step leads. -/
theorem states_after_step {Q : State → Prop} {n : Nat} {s s' : State} (h : step s = .next s')
    (hQ : ∀ j u, 1 ≤ j → j ≤ n → run j s = .next u → Q u) : ∀ j u, j < n → run j s' = .next u → Q u :=
  fun j u hj hu => hQ (j + 1) u (Nat.le_add_left 1 j) hj ((run_of_step j h).trans hu)

/-- Only a loss of power makes the block forget that a reset edge has come (R117, R123). -/
theorem step_keeps_resetSeen {s t : State} (hs : s.resetSeen = true) (hev : s.nextEvent ≠ .powerLoss)
    (h : step s = .next t) : t.resetSeen = true := by
  obtain ⟨hloss, -⟩ | ⟨p, -, hclock⟩ := step_cases h
  · exact absurd hloss hev
  · obtain ⟨-, rfl⟩ | ⟨-, -, -, a, b, -, -, rfl⟩ | ⟨-, -, -, -, rfl⟩ | ⟨-, -, -, -, rfl⟩ | ⟨-, -, -, rfl⟩ | ⟨-, hns, -⟩ :=
      clockEdge_cases hclock
    · rfl
    · exact hs
    · exact hs
    · exact hs
    · exact hs
    · exact absurd hs (Bool.eq_false_iff.mp hns)

/-- A step that does not accept leaves a block with nothing in flight so (R19). -/
theorem step_keeps_idle {s t : State} (hs : s.resetSeen = true ∧ s.busy = false)
    (hq : s.nextEvent ≠ .powerLoss ∧ ¬ ∃ a b, s.acceptsNext a b) (h : step s = .next t) :
    t.resetSeen = true ∧ t.busy = false := by
  have ht := step_keeps_resetSeen hs.1 hq.1 h
  obtain ⟨hrises, -⟩ := busyRisesAndFallsWhereStated s t h ht
  exact ⟨ht, Bool.eq_false_iff.mpr fun hb => hq.2 ((hrises hs.2).mp hb)⟩

/-- A step that does not complete leaves a block without a result so: OUT_VALID does not rise, and RES is written at most by a
reset (R20, R21). -/
theorem step_keeps_no_result {s t : State} (hs : s.resetSeen = true ∧ s.outValid = false ∧ s.res = 0x00000000#32)
    (hq : s.nextEvent ≠ .powerLoss ∧ ¬ s.completesNext) (h : step s = .next t) :
    t.resetSeen = true ∧ t.outValid = false ∧ t.res = 0x00000000#32 := by
  obtain ⟨hseen, hvalid, hres⟩ := hs
  obtain ⟨hev, hnc⟩ := hq
  have ht := step_keeps_resetSeen hseen hev h
  obtain ⟨-, hvalidRises, -⟩ := outValidRisesAndFallsWhereStated s t h ht
  obtain ⟨-, hresReset, hresKept⟩ := resIsWrittenOnlyWhereStated s t h ht
  refine ⟨ht, Bool.eq_false_iff.mpr fun hv => hnc (hvalidRises hvalid hv), ?_⟩
  by_cases hr : s.resetsNext
  · exact hresReset hr
  · exact (hresKept hnc hr).trans hres

/-- Settles O12: the reset edge leaves nothing in flight and no result, and both are kept by every step that does not accept
or, for the result, complete. -/
theorem resetAbandonsTheRequest : Obligations.ResetAbandonsTheRequest := by
  intro s p rest _ hs hr hv
  have hreset : step s = .next s.dropEvent.resetEdge := step_of_reset (s.nextEvent_cons _ _ hs) hr fun _ => hv
  refine ⟨⟨_, run_of_step 0 hreset⟩, fun n t hrun hpower => ?_⟩
  rw [run_of_step n hreset] at hrun
  replace hpower := states_after_step hreset hpower
  constructor
  · intro hna
    replace hna := states_after_step hreset hna
    exact (run_keeps_while (fun _ _ => step_keeps_idle) ⟨rfl, rfl⟩
      (fun j u hj hu => ⟨hpower j u hj hu, hna j u hj hu⟩) hrun).2
  · intro hnc
    replace hnc := states_after_step hreset hnc
    exact (run_keeps_while (fun _ _ => step_keeps_no_result) ⟨rfl, rfl, rfl⟩
      (fun j u hj hu => ⟨hpower j u hj hu, hnc j u hj hu⟩) hrun).2

end Sys2Proof.Machine

namespace Sys2Proof.Machine

/-! ### What an edge reads of its ports (R124, R126) -/

/-- Settles O13: both edges are the busy edge of `s`, whatever else is on the ports. -/
theorem offersWhileBusyAreNotRemembered : Obligations.OffersWhileBusyAreNotRemembered := by
  intro s p q _ hb hpr hqr hpv hqv
  refine ⟨by simp [State.inReady, hb], (clockEdge_of_busy hpr hpv hb).trans (clockEdge_of_busy hqr hqv hb).symm, ?_⟩
  intro t ht
  obtain ⟨t', ht', hopa, hopb⟩ := clockEdge_of_busy_keeps_operands hpr hpv hb
  cases ht.symm.trans ht'
  exact ⟨hopa, hopb⟩

/-- Settles O14: the edge rule names the operand ports in its accepting branch only; an offer outside it meets BUSY = 1. -/
theorem operandPortsAreSampledOnlyWhenAccepting : Obligations.OperandPortsAreSampledOnlyWhenAccepting := by
  rintro s ⟨rst, inValid, inA, inB⟩ ia ib - hna
  cases rst with
  | undriven => rfl
  | high => rfl
  | low =>
    cases inValid with
    | undriven => rfl
    | low => rfl
    | high =>
      have hb : s.busy = true := by simpa using hna
      exact (clockEdge_of_busy rfl (by simp) hb).trans (clockEdge_of_busy rfl (by simp) hb).symm

/-- The host keeps R126 at every edge that is answered. -/
theorem Ports.defined_of_answered {p : Ports} {s t : State} (h : clockEdge p s = .next t) : p.defined s := by
  obtain ⟨hr, -⟩ | ⟨hr, hv, -, a, b, ha, hb, -⟩ | ⟨hr, hv, hb, -⟩ | ⟨hr, hv, hb, -⟩ | ⟨hr, hv, -⟩ | ⟨hu, hs, -⟩ :=
    clockEdge_cases h
  · exact ⟨fun hs => ⟨by simp [hr], inValid_driven_of_answered_reset h hr hs⟩, by simp [hr]⟩
  · exact ⟨fun _ => by simp [hr, hv], by simp [ha, hb]⟩
  · exact ⟨fun _ => ⟨by simp [hr], hv⟩, by simp [hb]⟩
  · exact ⟨fun _ => ⟨by simp [hr], hv⟩, by simp [hb]⟩
  · exact ⟨fun _ => by simp [hr, hv], by simp [hv]⟩
  · exact ⟨by simp [hs], by rcases hu with hr | ⟨-, hv⟩ <;> simp [*]⟩

/-- A step has an answer exactly when the host keeps R126 at it (R118). -/
theorem step_answered_iff (s : State) : (∃ t, step s = .next t) ↔ s.hostDefined := by
  refine ⟨fun ⟨t, h⟩ => ?_, (everyStepHasANextStateOrIsRefused s).2⟩
  obtain ⟨hev, -⟩ | ⟨p, hev, hclock⟩ := step_cases h
  · simp only [State.hostDefined, hev]
  · have hp : p.defined s := Ports.defined_of_answered (s := s.dropEvent) hclock
    simpa only [State.hostDefined, hev] using hp

/-- Settles O15: a step that is not answered is refused, since there is no fault. -/
theorem refusesExactlyUndrivenInputs : Obligations.RefusesExactlyUndrivenInputs := by
  intro s
  rw [← step_answered_iff]
  cases step s with
  | next t => simp
  | fault r => cases r
  | refused r => simp

end Sys2Proof.Machine

namespace Sys2Proof.Machine

/-! ### The edges of a request in flight (R23, R127, R128) -/

theorem Event.quiet_iff {ev : Event} :
    ev.quiet = true ↔ ∃ p, ev = .edge p ∧ p.rst = .low ∧ p.inValid ≠ .undriven := by
  cases ev <;> simp [Event.quiet]

/-- The next `n` events, as far as they are written out, are quiet edges; past their end the edges are idle (log entry 1). -/
def State.QuietFor (s : State) (n : Nat) : Prop := ∀ ev ∈ s.events.take n, ev.quiet = true

theorem State.QuietFor.next {s : State} {n : Nat} (h : s.QuietFor (n + 1)) :
    ∃ p, s.nextEvent = .edge p ∧ p.rst = .low ∧ p.inValid ≠ .undriven := by
  cases hs : s.events with
  | nil => exact ⟨Ports.idle, s.nextEvent_nil hs, rfl, nofun⟩
  | cons ev rest =>
    rw [s.nextEvent_cons ev rest hs]
    exact Event.quiet_iff.mp (h ev (by simp [hs]))

theorem State.QuietFor.dropEvent {s : State} {n : Nat} (h : s.QuietFor (n + 1)) : s.dropEvent.QuietFor n := by
  intro ev hev
  cases hs : s.events with
  | nil => simp [hs] at hev
  | cons e rest =>
    have hmem : ev ∈ rest.take n := by simpa [hs] using hev
    exact h ev (by simp [hs, hmem])

/-- The step at a quiet edge that leaves the request in flight (R59). -/
theorem step_of_not_done {s : State} {n : Nat} (hq : s.QuietFor (n + 1)) (hb : s.busy = true) (hd : s.done = false) :
    step s = .next s.dropEvent.dropDraw.wait := by
  obtain ⟨p, hp, hr, hv⟩ := hq.next
  rw [step_of_nextEvent hp]
  exact (clockEdge_of_busy (s := s.dropEvent) hr hv hb).trans (busyEdge_of_not_done hd)

/-- The `n`-th step from `s` is the completion edge of the request in flight and leads to `t`; before it the request stays in
flight, and OUT_VALID and RES keep their values. Every edge uses up one of the timer's choices. -/
structure CompletesAt (n : Nat) (s t : State) : Prop where
  run_eq : run n s = .next t
  busy : t.busy = false
  outValid : t.outValid = true
  res : t.res = fpAdd s.opa s.opb
  opa : t.opa = s.opa
  opb : t.opb = s.opb
  doneDraws : t.doneDraws = s.doneDraws.drop n
  before : ∀ j, j < n → ∃ u, run j s = .next u ∧ u.busy = true ∧ u.outValid = s.outValid ∧ u.res = s.res

/-- A quiet edge with `done` completes the request (R59). -/
theorem CompletesAt.of_done {s : State} {n : Nat} (hq : s.QuietFor (n + 1)) (hb : s.busy = true) (hd : s.done = true) :
    CompletesAt 1 s (s.dropEvent.dropDraw.complete (fpAdd s.opa s.opb)) where
  run_eq := by
    obtain ⟨p, hp, hr, hv⟩ := hq.next
    exact run_of_step 0 (step_of_completesNext ⟨p, hp, hr, hv, hb, hd⟩)
  busy := rfl
  outValid := rfl
  res := rfl
  opa := rfl
  opb := rfl
  doneDraws := List.drop_one.symm
  before j hj := by
    obtain rfl : j = 0 := Nat.lt_one_iff.mp hj
    exact ⟨s, rfl, hb, rfl, rfl⟩

/-- A quiet edge without `done` puts the completion off by one edge and changes no register (R59). -/
theorem CompletesAt.of_not_done {s t : State} {n m : Nat} (hq : s.QuietFor (m + 1)) (hb : s.busy = true)
    (hd : s.done = false) (h : CompletesAt n s.dropEvent.dropDraw.wait t) : CompletesAt (n + 1) s t where
  run_eq := (run_of_step n (step_of_not_done hq hb hd)).trans h.run_eq
  busy := h.busy
  outValid := h.outValid
  res := h.res
  opa := h.opa
  opb := h.opb
  doneDraws := by simpa using h.doneDraws
  before j hj := by
    cases j with
    | zero => exact ⟨s, rfl, hb, rfl, rfl⟩
    | succ j =>
      rw [run_of_step j (step_of_not_done hq hb hd)]
      exact h.before j (Nat.lt_of_succ_lt_succ hj)

/-- Over quiet edges a request in flight completes before its timer runs out (R23). -/
theorem exists_completesAt_of_timer {n : Nat} {s : State} (ht : s.timer = n + 1) (hq : s.QuietFor (n + 1))
    (hb : s.busy = true) : ∃ k t, 1 ≤ k ∧ k ≤ n + 1 ∧ CompletesAt k s t := by
  induction n generalizing s with
  | zero => exact ⟨1, _, le_rfl, le_rfl, .of_done hq hb (s.done_of_timer_le_one ht.le)⟩
  | succ n ih =>
    cases hd : s.done with
    | true => exact ⟨1, _, le_rfl, Nat.le_add_left 1 _, .of_done hq hb hd⟩
    | false =>
      obtain ⟨k, t, -, hk, h⟩ := ih (s := s.dropEvent.dropDraw.wait) (by simp [ht]) hq.dropEvent hb
      exact ⟨k + 1, t, Nat.le_add_left 1 k, Nat.succ_le_succ hk, h.of_not_done hq hb hd⟩

/-- With its choices written out as `n` times "not yet" and then "complete now", a request in flight whose timer allows it
completes at exactly the edge after those `n` (log entry 6). -/
theorem exists_completesAt_of_doneDraws {n : Nat} {s : State} {ds : List Bool} (hq : s.QuietFor (n + 1))
    (hb : s.busy = true) (ht : n + 1 ≤ s.timer) (hds : s.doneDraws = List.replicate n false ++ true :: ds) :
    ∃ t, CompletesAt (n + 1) s t := by
  induction n generalizing s with
  | zero =>
    have hd : s.done = true := by simp [State.done, State.draw, hds]
    exact ⟨_, .of_done hq hb hd⟩
  | succ n ih =>
    have hd : s.done = false := State.done_of_draws (Nat.lt_of_lt_of_le (Nat.le_add_left 2 n) ht) hds
    obtain ⟨t, h⟩ := ih (s := s.dropEvent.dropDraw.wait) hq.dropEvent hb (Nat.le_sub_one_of_lt ht)
      (by simp [hds, List.replicate_succ])
    exact ⟨t, h.of_not_done hq hb hd⟩

/-- Settles O26: the invariant bounds the timer on both sides. -/
theorem requestInFlightCompletesInTime : Obligations.RequestInFlightCompletesInTime := by
  intro s hinv hseen hb hq
  obtain ⟨m, hm⟩ := Nat.exists_eq_add_of_le' (hinv.busy_timer_pos hseen hb)
  rw [hm] at hq
  obtain ⟨n, t, hpos, hle, h⟩ := exists_completesAt_of_timer hm hq hb
  rw [← hm] at hle
  refine ⟨n, t, hpos, hle, hle.trans (hinv.busy_timer_le hseen hb), h.run_eq, h.busy, h.outValid, h.res, h.opa, h.opb, ?_⟩
  simpa only [hinv.busy_not_valid hseen hb] using h.before

/-- A request accepted by the first step completes one edge later than in the state after acceptance. -/
theorem CompletesAt.run_of_acceptsNext {L : Nat} {s t : State} {a b : Word} (h : CompletesAt L (s.dropEvent.accept a b) t)
    (ha : s.acceptsNext a b) : run (1 + L) s = .next t := by
  rw [Nat.add_comm, run_of_step L (step_of_acceptsNext ha), h.run_eq]

/-- From its acceptance to its completion a request is in flight, OUT_VALID is 0 and RES is that before acceptance (R128). -/
theorem CompletesAt.between_of_acceptsNext {L : Nat} {s t : State} {a b : Word}
    (h : CompletesAt L (s.dropEvent.accept a b) t) (ha : s.acceptsNext a b) {j : Nat} (hpos : 1 ≤ j) (hj : j ≤ L) :
    ∃ u, run j s = .next u ∧ u.busy = true ∧ u.outValid = false ∧ u.res = s.res := by
  obtain ⟨i, rfl⟩ := Nat.exists_eq_add_of_le' hpos
  rw [run_of_step i (step_of_acceptsNext ha)]
  exact h.before i hj

/-- Settles O27: the accepting edge starts the timer at LAT_MAX. -/
theorem acceptedRequestCompletes : Obligations.AcceptedRequestCompletes := by
  intro s p rest a b _ hb hs hr hv hpa hpb hrest
  have ha : s.acceptsNext a b := ⟨p, s.nextEvent_cons _ _ hs, hr, hv, hpa, hpb, hb⟩
  have hq : (s.dropEvent.accept a b).QuietFor Config.latMax := by simpa [State.QuietFor, hs] using hrest
  obtain ⟨L, t, hpos, hle, h⟩ := exists_completesAt_of_timer (n := Config.latMaxPred) rfl hq rfl
  exact ⟨L, t, hpos, hle, h.run_of_acceptsNext ha, h.busy, h.outValid, h.res, h.opa, h.opb,
    fun _ => h.between_of_acceptsNext ha⟩

/-- Settles O28: the timer starts at LAT_MAX, so it allows the L edges that the choices ask for. -/
theorem everyLatencyIsPossible : Obligations.EveryLatencyIsPossible := by
  intro s p rest a b L ds _ hb hs hr hv hpa hpb hrest hpos hle hds
  obtain ⟨n, rfl⟩ := Nat.exists_eq_add_of_le' hpos
  have ha : s.acceptsNext a b := ⟨p, s.nextEvent_cons _ _ hs, hr, hv, hpa, hpb, hb⟩
  have hq : (s.dropEvent.accept a b).QuietFor (n + 1) := by simpa [State.QuietFor, hs] using hrest
  obtain ⟨t, h⟩ := exists_completesAt_of_doneDraws hq rfl hle hds
  have hdraws : t.doneDraws = ds := by simpa [hds, List.drop_append] using h.doneDraws
  refine ⟨⟨t, h.run_of_acceptsNext ha, h.outValid, h.res, hdraws⟩, fun j hj hjL => ?_⟩
  obtain ⟨u, hu, hbu, -⟩ := h.between_of_acceptsNext ha hj hjL
  exact ⟨u, hu, hbu⟩

end Sys2Proof.Machine
